-- ==== Sys2Proof/Word.lean ====
section
/-! DEFINITION. The word types of the walker (spec/00_scope.md R5). -/

namespace Sys2Proof

/-- `bits(1)` of R5: a one-bit string, which is not a boolean. -/
abbrev Bit := BitVec 1

/-- One byte of physical memory (R43). -/
abbrev Byte := BitVec 8

/-- A translation table descriptor, always 64 bits (R60). -/
abbrev Descriptor := BitVec 64

/-- The number of an aligned 8-byte location of a physical address space: bits 47:3 of its address (R47, R48). -/
abbrev Slot := BitVec 45

end Sys2Proof
end

