-- ==== Sys2Proof/Machine/Operands.lean ====
section
/-! DEFINITION. The bit string operations of spec/00_scope.md R6 to R8 and the address forms of
spec/30_encoding.md R66. -/

namespace Sys2Proof.Machine

/-- `v[i]` (R6). -/
def bit {n : Nat} (v : BitVec n) (i : Nat) : Bit := v.extractLsb' i 1

/-- `v[hi:lo]` (R6); the empty string when `hi < lo` (R8). -/
def slice {n : Nat} (v : BitVec n) (hi lo : Nat) : BitVec (hi + 1 - lo) := v.extractLsb' lo (hi + 1 - lo)

/-- `IsZero` (R6). -/
def isZero {n : Nat} (v : BitVec n) : Bool := v == 0#n

/-- A boolean as a one-bit string. -/
def bitOf (b : Bool) : Bit := if b then 1#1 else 0#1

/-- `RoundUp(Real(a) / Real(b))`: the ceiling of the exact quotient (R7). -/
def roundUpDiv (a b : Int) : Int := -((-a) / b)

/-- `v[47:lo] : Zeros(lo)`, 48 bits: the address of a table (R100, R118). -/
def tableAddress (v : BitVec 64) (lo : Nat) : BitVec 48 := (slice v 47 lo ++ 0#lo).setWidth 48

/-- `zext_48(inputaddr[top:bottom] : '000')`: the byte offset of a descriptor in its table (R111). -/
def tableIndex (inputaddr : BitVec 64) (top bottom : Nat) : BitVec 48 :=
  (slice inputaddr top bottom ++ 0#3).setWidth 48

/-- `desc[47:b] : inputaddr[b-1:0]`: the output address (R137). -/
def joinOffset (desc inputaddr : BitVec 64) (b : Nat) : BitVec 48 :=
  (slice desc 47 b ++ inputaddr.extractLsb' 0 b).setWidth 48

/-- `outputsize != 48 && !IsZero(v[47:outputsize])` (R99, R117, R135). -/
def exceedsOutputSize (outputsize : Nat) (v : BitVec 64) : Bool :=
  outputsize != 48 && !isZero (slice v 47 outputsize)

/-- `(3 - level)*stride + grainsize`: the lowest address bit that indexes the table of a level (R65, R111). -/
def selectBottom (level stride grainsize : Nat) : Nat := (3 - level) * stride + grainsize

/-- Byte `k` of a 64-bit value, byte 0 the least significant. -/
def byteOf (v : BitVec 64) (k : Nat) : Byte := v.extractLsb' (8 * k) 8

/-- Eight bytes put together, the first the least significant: `_Mem` is little-endian (R45, D3). -/
def fromBytes (b0 b1 b2 b3 b4 b5 b6 b7 : Byte) : BitVec 64 :=
  b7 ++ b6 ++ b5 ++ b4 ++ b3 ++ b2 ++ b1 ++ b0

/-- The bytes of a 64-bit value at ascending addresses (R45, D3). -/
def toBytes (v : BitVec 64) : List Byte :=
  [byteOf v 0, byteOf v 1, byteOf v 2, byteOf v 3, byteOf v 4, byteOf v 5, byteOf v 6, byteOf v 7]

/-- `BigEndianReverse` on 64 bits: the eight bytes in reverse order (R45). -/
def bigEndianReverse (v : BitVec 64) : BitVec 64 :=
  fromBytes (byteOf v 7) (byteOf v 6) (byteOf v 5) (byteOf v 4) (byteOf v 3) (byteOf v 2) (byteOf v 1) (byteOf v 0)

end Sys2Proof.Machine
end

