-- ==== Sys2Proof/Machine/Records.lean ====
section
/-! DEFINITION. The types of the values a walk is given and builds (spec/10_state.md R24, R28 to R32). -/

namespace Sys2Proof.Machine

/-- The exception levels (R24). The source names only EL2: the other names are PRESUMED (log entry 14). -/
inductive EL where
  | el0 | el1 | el2 | el3
deriving DecidableEq, Repr, Inhabited

/-- The two outcomes that R92 allows `ConstrainUnpredictable()`. -/
inductive Constraint where
  | force | fault
deriving DecidableEq, Repr, Inhabited

/-- `AccType` (R32, D26): uninterpreted but for `AccType_PTW`, the access type of the walk's own reads. -/
inductive AccType where
  | ptw
  | other (code : Nat)
deriving DecidableEq, Repr, Inhabited

/-- `MemoryAttributes` (R29): uninterpreted constructors that keep their raw arguments (D27). -/
inductive MemoryAttributes where
  /-- Only the field `type` assigned, `MemType_Normal` (R83). -/
  | typeNormal
  /-- `WalkAttrDecode(SH, ORGN, IRGN)` (R93). -/
  | walkAttr (sh orgn irgn : BitVec 2)
  /-- `AArch64.S1AttrDecode(sh, attrindx, acctype)` (R140). -/
  | s1Attr (sh : BitVec 2) (attrIndx : BitVec 3) (acctype : AccType)
  /-- `S2AttrDecode(sh, memattr, acctype)` (R141). -/
  | s2Attr (sh : BitVec 2) (memattr : BitVec 4) (acctype : AccType)
  /-- Any other value, as `SecondStageWalk` may return one. -/
  | other (code : Nat)
deriving DecidableEq, Repr, Inhabited

/-- The full physical address of R42: `ns = 0` names the Secure space, `ns = 1` the Non-secure one. -/
structure FullAddress where
  physicaladdress : BitVec 48
  ns : Bit
deriving DecidableEq, Repr, Inhabited

/-- The six arguments of the fault constructors (R31, R155). -/
structure FaultArgs where
  ipaddress : BitVec 48
  level : Nat
  acctype : AccType
  iswrite : Bool
  secondstage : Bool
  s2fs1walk : Bool
deriving DecidableEq, Repr, Inhabited

/-- `FaultRecord` (R31, D21): one free constructor per fault kind, and what stage 2 builds. -/
inductive FaultRecord where
  | noFault
  | translation (a : FaultArgs)
  | addressSize (a : FaultArgs)
  | accessFlag (a : FaultArgs)
  | stage2 (code : Nat)
deriving DecidableEq, Repr, Inhabited

/-- `AddressDescriptor` as `AArch64.SecondStageWalk` returns one (R29, R112). -/
structure AddressDescriptor where
  fault : FaultRecord
  memattrs : MemoryAttributes
  paddress : FullAddress
  vaddress : BitVec 64
deriving DecidableEq, Repr, Inhabited

/-- The fields of `descaddr` that the walk assigns (R83, R93, R111): its `fault` and `vaddress` have no value. -/
structure DescAddr where
  memattrs : MemoryAttributes
  paddress : FullAddress
deriving DecidableEq, Repr, Inhabited

/-- The request of a descriptor read: `descaddr2` with its virtual address (R113) and the access type of the
read (R44). -/
structure ReadRequest where
  memattrs : MemoryAttributes
  paddress : FullAddress
  vaddress : BitVec 64
  acctype : AccType
deriving DecidableEq, Repr, Inhabited

/-- `result.perms` (R30). -/
structure Permissions where
  ap : BitVec 3
  xn : Bit
  pxn : Bit
deriving DecidableEq, Repr, Inhabited

/-- The valued fields of a `TLBRecord` on success (R28, R81, R144), and `domain`, which is UNKNOWN (R138):
a free value, log entry 6. -/
structure Translation where
  paddress : FullAddress
  memattrs : MemoryAttributes
  domain : BitVec 4
  level : Nat
  blocksize : Nat
  perms : Permissions
  nG : Bit
  contiguous : Bool
deriving DecidableEq, Repr, Inhabited

/-- What a walk returns (R81, D6): a fault record and no other field, or a translation with `NoFault`. -/
inductive WalkResult where
  | fault (f : FaultRecord)
  | ok (t : Translation)
deriving DecidableEq, Repr, Inhabited

/-- The fields of TCR_EL1 that a walk reads (R21). `t0sz` has no width in the source (D8); the widths of `irgn0`,
`orgn0` and `sh0`, which are only passed on, are PRESUMED (log entry 23). -/
structure TcrEl1 where
  t0sz : Nat
  epd0 : Bit
  irgn0 : BitVec 2
  orgn0 : BitVec 2
  sh0 : BitVec 2
  tg0 : BitVec 2
  ips : BitVec 3
deriving DecidableEq, Repr, Inhabited

/-- The answers of `ELUsingAArch32(el)`, one for each exception level (R4, R82). -/
structure UsingAArch32 where
  el0 : Bool
  el1 : Bool
  el2 : Bool
  el3 : Bool
deriving DecidableEq, Repr, Inhabited

/-- The registers and the processor state outside the walker that a walk samples (R21 to R26, R82). -/
structure Registers where
  tcrEl1 : TcrEl1
  /-- TTBR0_EL1 (R22). -/
  ttbr0El1 : BitVec 64
  /-- SCTLR_EL1.EE (R23). -/
  sctlrEl1Ee : Bit
  /-- PSTATE.EL (R24). -/
  pstateEl : EL
  /-- `IsSecure()` (R25). -/
  secure : Bool
  usingAArch32 : UsingAArch32
  /-- `S1TranslationRegime()` (R82). -/
  s1Regime : EL
  /-- TCR_EL2.PS, TCR_EL3.PS and VTCR_EL2.PS: named by the source in a comment, read by no surviving
  statement (R26). -/
  tcrEl2Ps : BitVec 3
  tcrEl3Ps : BitVec 3
  vtcrEl2Ps : BitVec 3
deriving DecidableEq, Repr, Inhabited

/-- The seven arguments of a call (R80), and the answers that `AddrTop` (D16) and `ConstrainUnpredictable` (D4)
give in it: `top` and `draw` are free inputs of the walk (R4). -/
structure Call where
  ipaddress : BitVec 48
  vaddress : BitVec 64
  acctype : AccType
  iswrite : Bool
  secondstage : Bool
  s2fs1walk : Bool
  /-- Never used (D25). -/
  size : Int
  top : Nat
  draw : Constraint
deriving DecidableEq, Repr, Inhabited

/-- The parameter record of R102. `inputsize` and the start `level` are unbounded integers (R5): they may be
negative or too large before R97 ends the walk. -/
structure WalkParams where
  inputaddr : BitVec 64
  inputsize : Int
  largegrain : Bool
  midgrain : Bool
  basefound : Bool
  disabled : Bool
  baseregister : BitVec 64
  /-- `descaddr.memattrs`. -/
  memattrs : MemoryAttributes
  ps : BitVec 3
  reversedescriptors : Bool
  lookupsecure : Bool
  singlepriv : Bool
  grainsize : Nat
  firstblocklevel : Nat
  stride : Nat
  /-- The start level. -/
  level : Int
deriving DecidableEq, Repr, Inhabited

/-- The variables of one walk (R33), with the processor state sampled for it (R25, R27) and the MODEL's count of
its descriptor reads (R121). -/
structure Vars where
  params : WalkParams
  /-- `IsSecure()`, one boolean for the whole walk (R25). -/
  secure : Bool
  /-- `PSTATE.EL` (R24, R27). -/
  el : EL
  level : Nat
  outputsize : Nat
  baselowerbound : Nat
  baseaddress : BitVec 48
  nsTable : Bit
  apTable : BitVec 2
  xnTable : Bit
  pxnTable : Bit
  addrselecttop : Nat
  addrselectbottom : Nat
  index : BitVec 48
  descaddr : DescAddr
  descaddr2 : ReadRequest
  desc : Descriptor
  blocktranslate : Bool
  contiguousbitcheck : Bool
  outputaddress : BitVec 48
  xn : Bit
  pxn : Bit
  contiguousbit : Bit
  nG : Bit
  sh : BitVec 2
  ap : BitVec 3
  memattr : BitVec 4
  reads : Nat
deriving DecidableEq, Repr, Inhabited

end Sys2Proof.Machine
end

