-- ==== Sys2Proof/Config.lean ====
section
/-! DEFINITION. What an implementation fixes (spec/00_scope.md R4) and the free values: the constants
without a body, whose values no proof can see. -/

namespace Sys2Proof

open Sys2Proof.Machine

/-- One row of the grain table (R95). -/
structure GrainRow where
  grainsize : Nat
  firstblocklevel : Nat
deriving DecidableEq, Repr, Inhabited

/-- The grain table, a configuration value (R4, D1). That it has a row for each of the three grains, so that every
machine supports all three and no walk is turned away for its `TG0`, is a DESIGN CHOICE: R95 says nothing about an
implementation that lacks a grain size (log entry 35). -/
structure GrainTable where
  large : GrainRow
  mid : GrainRow
  small : GrainRow
deriving DecidableEq, Repr, Inhabited

/-- The table of decision D1 (R95): the mid row is the source's own, the `firstblocklevel` of the other two is
PRESUMED (log entry 3). -/
def GrainTable.d1 : GrainTable :=
  { large := { grainsize := 16, firstblocklevel := 2 }
    mid := { grainsize := 14, firstblocklevel := 2 }
    small := { grainsize := 12, firstblocklevel := 1 } }

/-- The configuration of R4, fixed for a machine. A claim quantifies over it. -/
structure Config where
  /-- `PAMax()`; a call is refused when it is 0 (D17). -/
  paMax : Nat
  /-- `HaveEL(EL2)`. -/
  haveEL2 : Bool
  /-- IMPLEMENTATION_DEFINED "Translation fault on misprogrammed contiguous bit" (R132, D5). -/
  contigFault : Bool
  grain : GrainTable
deriving DecidableEq, Repr, Inhabited

/-- `PAMax()` of the machine at hand: free (log entry 2). -/
opaque Config.machinePaMax : Nat

/-- `HaveEL(EL2)` of the machine at hand: free (log entry 2). -/
opaque Config.machineHaveEL2 : Bool

/-- The implementation's choice of R132 on the machine at hand: free (log entry 2). -/
opaque Config.machineContigFault : Bool

/-- The machine's own configuration: free but for the grain table, which is D1's. -/
def Config.machine : Config :=
  { paMax := Config.machinePaMax
    haveEL2 := Config.machineHaveEL2
    contigFault := Config.machineContigFault
    grain := GrainTable.d1 }

/-- The value of `result.domain`, `bits(4) UNKNOWN` (R9, R138), at a tick (log entry 6). -/
opaque Config.unknownDomain : Nat → BitVec 4

/-- What a byte that holds nothing answers at a tick (R52, D19): address space, address, tick (log entry 9). -/
opaque Config.freeByte : Bit → Nat → Nat → Byte

/-- Which of the values a location has held since launch a racing read answers (R53, D12; log entry 11). -/
opaque Config.readChoice : Nat → Nat

/-- Which of the results that walks could have returned since launch a translation returns (R174; log entry 12). -/
opaque Config.staleChoice : Nat → Nat

/-- The parameter record of a call at an earlier time at which its derivation is lost or a record was supplied, for
the registers of that time, at a tick (R90, R174; log entry 12). -/
opaque Config.earlierParams : Registers → Call → Nat → WalkParams

/-- What an unaligned read that overlaps a racing write answers (log entry 28). -/
opaque Config.freeWord : Nat → BitVec 64

/-- `AArch64.SecondStageWalk(descaddr, vaddress, acctype, iswrite, size)` at a tick (R112, D9): nothing is
assumed of it but its type (log entry 8). -/
opaque Config.secondStageWalk : DescAddr → BitVec 64 → AccType → Bool → Nat → Nat → AddressDescriptor

end Sys2Proof
end

