-- ==== Sys2Proof/Machine/State.lean ====
section
/-! DEFINITION. The state of the walker and of what it reads (spec/10_state.md, 20_memory.md), as plain data. -/

namespace Sys2Proof.Machine

/-- Physical memory (R42, R43): for each of the two address spaces a list of bytes, the addresses strictly
rising. An address that is not listed holds no value (R52; log entry 9). -/
structure Memory where
  secure : List Host.Cell
  nonsecure : List Host.Cell
deriving DecidableEq, Repr, Inhabited

/-- An aligned 64-bit value at a location of an address space (R48, D10): a write of another agent, or a value
that such a write has replaced. -/
structure SlotValue where
  ns : Bit
  slot : Slot
  value : BitVec 64
deriving DecidableEq, Repr, Inhabited

/-- A walk that a call entered: the registers it sampled, its call and its parameter record (R27, R102). -/
structure MadeWalk where
  regs : Registers
  call : Call
  params : WalkParams
deriving DecidableEq, Repr, Inhabited

/-- What the world outside the walker does next (log entry 15). -/
inductive Input where
  /-- The walker moves. -/
  | walker
  /-- Another agent writes a table (R49, R175). -/
  | memoryWrite (w : SlotValue)
  /-- The processor's registers and state are now these (R21 to R27). With the values they have already it says that
  a register has changed that the model does not hold (log entry 12). -/
  | registers (r : Registers)
  /-- The caller calls the walk (R80). -/
  | call (c : Call)
  /-- The caller asks for a translation that a TLB may answer, with or without a parameter record (R50, R174, R102;
  log entry 12). -/
  | translate (c : Call) (supplied : Option WalkParams)
  /-- The caller calls the walk and supplies the parameter record (R102, D2). -/
  | callWith (c : Call) (p : WalkParams)
deriving DecidableEq, Repr

/-- The phase of R20 and R33: no walk in progress, or a walk about to read the descriptor of `vars.level`. -/
inductive Phase where
  | idle
  | fetching
deriving DecidableEq, Repr, Inhabited

/-- A stop of the machine. The faults of the spec are no stops: they are returned in `result` (R150). -/
inductive Fault where
  /-- Raised by a step that finds a walk in progress at a level above 3: R121 shows that no walk gets there, and
  the slices of R111 are not defined there. Safe. -/
  | noSuchLevel
deriving DecidableEq, Repr

/-- Why the machine gives a call no meaning. -/
inductive Refusal where
  /-- Raised by an arm of `exec` that has no meaning yet. Safe. -/
  | notModelled (mnemonic : String)
  /-- Raised by a call that fails an entry assertion (R82, R157, D28). Safe. -/
  | entryAssertion
  /-- Raised by a call on a configuration with `PAMax() = 0` (R4, D17). Safe. -/
  | paMaxTooSmall
  /-- Raised by a call whose `AddrTop` is not in 48..63 (R4, D16). Safe. -/
  | addrTopOutOfRange
  /-- Raised by a stage 2 call that supplies no parameter record: its derivation is lost (R90, D2, N6). Safe. -/
  | lostStage2Derivation
  /-- Raised by a stage 1 call of another regime than EL1&0 that supplies no parameter record: its derivation is
  lost (R90, D2, N3). Safe. -/
  | lostRegimeDerivation
  /-- Raised by a call for the upper half of the address space that supplies no parameter record: its
  derivation is lost (R90, D2, N4). Safe. -/
  | lostUpperHalfDerivation
  /-- Raised by a call whose parameter record would make a later slice ill formed (R6, R102, D2; log entry 26).
  Safe. -/
  | illFormedParameters
deriving DecidableEq, Repr

/-- The whole machine. -/
structure State where
  config : Config
  regs : Registers
  phase : Phase
  call : Call
  vars : Vars
  /-- What the last walk returned (R81); absent from the start of a call until it returns (R83). -/
  result : Option WalkResult
  mem : Memory
  /-- Values that locations have held since launch and other agents have replaced (R53, D12). -/
  superseded : List SlotValue
  /-- Register values that have been replaced since launch, of which a TLB may still hold results (R50, R174). -/
  earlierRegisters : List Registers
  /-- The walks made since launch, of which a TLB may hold results (R50, R174): of a walk whose derivation is lost
  (R90) only its record tells what it read. -/
  madeWalks : List MadeWalk
  inputs : List Input
  /-- Answers of `AArch64.SecondStageWalk` still to be given (R112, D9). -/
  stage2 : List AddressDescriptor
  /-- The model's own counter, the argument of the free values. -/
  tick : Nat
deriving DecidableEq, Repr

/-- Nothing listed in either address space. -/
def Memory.empty : Memory := { secure := [], nonsecure := [] }

/-- The registers at reset: R35 and R170 give no value, so these are the model's (log entry 1). -/
def Registers.reset : Registers :=
  { tcrEl1 := { t0sz := 16, epd0 := 0#1, irgn0 := 0#2, orgn0 := 0#2, sh0 := 0#2, tg0 := 0#2, ips := 0#3 }
    ttbr0El1 := 0#64
    sctlrEl1Ee := 0#1
    pstateEl := .el1
    secure := false
    usingAArch32 := { el0 := false, el1 := false, el2 := false, el3 := false }
    s1Regime := .el1
    tcrEl2Ps := 0#3
    tcrEl3Ps := 0#3
    vtcrEl2Ps := 0#3 }

/-- The arguments of no call (log entry 18): zero or FALSE, with `top` 63, the draw FORCE and an access type that is
not `AccType_PTW`. -/
def Call.reset : Call :=
  { ipaddress := 0#48, vaddress := 0#64, acctype := .other 0, iswrite := false, secondstage := false,
    s2fs1walk := false, size := 0, top := 63, draw := .force }

/-- A parameter record before its first assignment (log entry 18); its attributes are R83's. -/
def WalkParams.reset : WalkParams :=
  { inputaddr := 0#64, inputsize := 0, largegrain := false, midgrain := false, basefound := false,
    disabled := false, baseregister := 0#64, memattrs := .typeNormal, ps := 0#3, reversedescriptors := false,
    lookupsecure := false, singlepriv := false, grainsize := 0, firstblocklevel := 0, stride := 0, level := 0 }

/-- The walk variables before their first assignment (R35; log entry 18): zero, FALSE or the empty record, both NS
bits 0 (written `0#1`, the value 0 of one bit) among them; `el` is EL1, the attributes are R83's, and the access type of
the read request is `AccType_PTW`. -/
def Vars.reset : Vars :=
  { params := WalkParams.reset, secure := false, el := .el1, level := 0, outputsize := 0, baselowerbound := 0,
    baseaddress := 0#48, nsTable := 0#1, apTable := 0#2, xnTable := 0#1, pxnTable := 0#1, addrselecttop := 0,
    addrselectbottom := 0, index := 0#48,
    descaddr := { memattrs := .typeNormal, paddress := { physicaladdress := 0#48, ns := 0#1 } },
    descaddr2 := { memattrs := .typeNormal, paddress := { physicaladdress := 0#48, ns := 0#1 },
                   vaddress := 0#64, acctype := .ptw },
    desc := 0#64, blocktranslate := false, contiguousbitcheck := false, outputaddress := 0#48, xn := 0#1,
    pxn := 0#1, contiguousbit := 0#1, nG := 0#1, sh := 0#2, ap := 0#3, memattr := 0#4, reads := 0 }

/-- The machine right after reset (R35, R170): no walk in progress, nothing in memory, the configuration that of
the machine at hand, and the registers at the values of log entry 1. It is the launch state of R174: nothing
of an earlier time is recorded, the premise `NoTLBHoldsAnything`. -/
def State.reset : State :=
  { config := Config.machine
    regs := Registers.reset
    phase := .idle
    call := Call.reset
    vars := Vars.reset
    result := none
    mem := Memory.empty
    superseded := []
    earlierRegisters := []
    madeWalks := []
    inputs := []
    stage2 := []
    tick := 0 }

end Sys2Proof.Machine
end

