-- ==== Sys2Proof/Machine/Memory.lean ====
section
/-! DEFINITION. Physical memory: the canonical form, the read of a byte, the store of a 64-bit value
(spec/20_memory.md R42 to R45). -/

namespace Sys2Proof.Machine

/-- The addresses are strictly rising, at least `lo` and below 2^48. -/
def sortedFrom (lo : Nat) (cells : List Host.Cell) : Bool :=
  match cells with
  | [] => true
  | c :: rest => decide (lo ≤ c.1) && decide (c.1 < 2 ^ 48) && sortedFrom (c.1 + 1) rest

/-- The canonical form of memory. An unlisted address holds no value, so no entry can repeat it. -/
def Memory.wf (m : Memory) : Bool := sortedFrom 0 m.secure && sortedFrom 0 m.nonsecure

/-- What the list holds at an address. -/
def cellAt (cells : List Host.Cell) (a : Nat) : Option Byte :=
  match cells with
  | [] => none
  | c :: rest => if c.1 = a then some c.2 else cellAt rest a

/-- The list with a byte stored at an address. -/
def storeCell (cells : List Host.Cell) (a : Nat) (v : Byte) : List Host.Cell :=
  match cells with
  | [] => [(a, v)]
  | c :: rest =>
    if a < c.1 then (a, v) :: c :: rest
    else if a = c.1 then (a, v) :: rest
    else c :: storeCell rest a v

/-- The address space that NS names (R42). -/
def Memory.space (m : Memory) (ns : Bit) : List Host.Cell := if ns = 0#1 then m.secure else m.nonsecure

/-- The read of one byte: what (NS, address) holds, if anything. -/
def Memory.byte (m : Memory) (ns : Bit) (a : Nat) : Option Byte := cellAt (m.space ns) a

/-- A byte stored at (NS, address); an address outside the 48-bit space is not stored to (R42). -/
def Memory.storeByte (m : Memory) (ns : Bit) (a : Nat) (v : Byte) : Memory :=
  if 2 ^ 48 ≤ a then m
  else if ns = 0#1 then { m with secure := storeCell m.secure a v }
  else { m with nonsecure := storeCell m.nonsecure a v }

/-- Bytes stored at ascending addresses. -/
def Memory.storeBytes (m : Memory) (ns : Bit) (a : Nat) (bytes : List Byte) : Memory :=
  match bytes with
  | [] => m
  | b :: rest => (m.storeByte ns a b).storeBytes ns (a + 1) rest

/-- The address of a location's first byte. -/
def slotAddress (slot : Slot) : Nat := 8 * slot.toNat

/-- An aligned 64-bit store, little-endian (R45, R48). -/
def Memory.store64 (m : Memory) (w : SlotValue) : Memory :=
  m.storeBytes w.ns (slotAddress w.slot) (toBytes w.value)

/-- Byte `a` as a descriptor read at a tick meets it: what memory holds, or a free value where it holds nothing
(R44, R52, D19; log entry 9). -/
def Memory.answerByte (m : Memory) (ns : Bit) (tick a : Nat) : Byte :=
  match m.byte ns a with
  | some b => b
  | none => Config.freeByte ns a tick

/-- The eight bytes at `a + 0 .. + 7` as 64 bits, the byte at the lowest address bits 7:0 (R44, R45). -/
def Memory.answer64 (m : Memory) (ns : Bit) (tick a : Nat) : BitVec 64 :=
  fromBytes (m.answerByte ns tick a) (m.answerByte ns tick (a + 1)) (m.answerByte ns tick (a + 2))
    (m.answerByte ns tick (a + 3)) (m.answerByte ns tick (a + 4)) (m.answerByte ns tick (a + 5))
    (m.answerByte ns tick (a + 6)) (m.answerByte ns tick (a + 7))

end Sys2Proof.Machine
end

