-- ==== Sys2Proof/Machine/Ops.lean ====
section
/-! DEFINITION. The named operations of the walk: raising a fault and returning a translation
(spec/60_exceptions.md R150, spec/43_walk_result.md R142), the descriptor read (spec/20_memory.md R44, R45, R53),
the write of another agent (R49, R175), stage 2 of a descriptor address (spec/42_walk_loop.md R112). -/

namespace Sys2Proof.Machine

/-- The state with its walk variables replaced. -/
def State.withVars (s : State) (v : Vars) : State := { s with vars := v }

/-- The six arguments of a fault constructor: the call's own, and `level` as it stands (R155). -/
def faultArgs (s : State) : FaultArgs :=
  { ipaddress := s.call.ipaddress
    level := s.vars.level
    acctype := s.call.acctype
    iswrite := s.call.iswrite
    secondstage := s.call.secondstage
    s2fs1walk := s.call.s2fs1walk }

/-- `result.addrdesc.fault = f; return result`: the walk ends at once and assigns nothing else (R150). -/
def returnFault (f : FaultRecord) (s : State) : State :=
  { s with result := some (.fault f), phase := .idle }

/-- `raise TranslationFault` (R150, R151). -/
def raiseTranslationFault (s : State) : State := returnFault (.translation (faultArgs s)) s

/-- `raise AddressSizeFault` (R150, R152). -/
def raiseAddressSizeFault (s : State) : State := returnFault (.addressSize (faultArgs s)) s

/-- `raise AccessFlagFault` (R150, R153). -/
def raiseAccessFlagFault (s : State) : State := returnFault (.accessFlag (faultArgs s)) s

/-- `result.addrdesc.fault = AArch64.NoFault(); return result` with every other field assigned (R142). -/
def returnTranslation (t : Translation) (s : State) : State :=
  { s with result := some (.ok t), phase := .idle }

/-- `IsFault(d)` (R31, D21). -/
def isFault (f : FaultRecord) : Bool := f != .noFault

/-- A replaced value lies within the eight bytes at (`ns`, `a`). -/
def overlapsRead (ns : Bit) (a : Nat) (w : SlotValue) : Bool :=
  w.ns == ns && decide (slotAddress w.slot < a + 8) && decide (a < slotAddress w.slot + 8)

/-- The values other than the present one that a read of eight bytes at (`ns`, `a`) may meet (R53, D12). -/
def earlierValues (s : State) (ns : Bit) (a : Nat) : List (BitVec 64) :=
  (s.superseded.filter (overlapsRead ns a)).map SlotValue.value

/-- `_Mem[d, 8, AccType_PTW]` (R44): memory's present contents where no other agent has written since launch.
Where one has, any of the values the location has held since launch (R53, D12), never a mixture (R48, D10); for
an unaligned address, which only an answer of stage 2 can be, a free value. -/
def memRead (s : State) (p : FullAddress) : BitVec 64 :=
  let a := p.physicaladdress.toNat
  let present := s.mem.answer64 p.ns s.tick a
  match earlierValues s p.ns a with
  | [] => present
  | v :: rest =>
    if a % 8 = 0 then (present :: v :: rest).getD (Config.readChoice s.tick % (rest.length + 2)) present
    else Config.freeWord s.tick

/-- Another agent's aligned 64-bit write (R49, R175): the value it replaces may still be read (R53, D12). -/
def externalWrite (w : SlotValue) (s : State) : State :=
  { s with
    mem := s.mem.store64 w
    superseded :=
      { ns := w.ns, slot := w.slot, value := s.mem.answer64 w.ns s.tick (slotAddress w.slot) } :: s.superseded
    tick := s.tick + 1 }

/-- The test of R112: the descriptor address is an intermediate physical address. Its operands have no effect of
their own, so their order is free. -/
def descaddrNeedsStage2 (s : State) : Bool :=
  !s.call.secondstage && !s.vars.secure && s.vars.el != .el2 && s.config.haveEL2

/-- `AArch64.SecondStageWalk(descaddr, vaddress, acctype, iswrite, 8)` (R112, D9): the next answer the
environment supplies, a free one where it supplies none (log entry 8). -/
def stage2Answer (s : State) : AddressDescriptor :=
  match s.stage2 with
  | d :: _ => d
  | [] => Config.secondStageWalk s.vars.descaddr s.call.vaddress s.call.acctype s.call.iswrite 8 s.tick

end Sys2Proof.Machine
end

