-- ==== Sys2Proof/Syntax.lean ====
section
/-! DEFINITION. The syntax: one constructor per row of spec/opcode_table.json (R61). Every bit of a descriptor
that the class does not fix is an operand, the ignored ones too (R62, R63, U13). -/

namespace Sys2Proof

/-- The operands of a TABLE descriptor (R62), from bit 2 up. The table address is bits 47:`grainsize`; the bits
of `address` below `grainsize` are ignored, and so are the three `ignored` fields. -/
structure TableFields where
  /-- Bits 11:2. -/
  ignoredLow : BitVec 10
  /-- Bits 47:12. -/
  address : BitVec 36
  /-- Bits 58:48. -/
  ignoredMid : BitVec 11
  /-- Bit 59, PXNTable. -/
  pxnTable : Bit
  /-- Bit 60, XNTable. -/
  xnTable : Bit
  /-- Bits 62:61, APTable. -/
  apTable : BitVec 2
  /-- Bit 63, NSTable. -/
  nsTable : Bit
deriving DecidableEq, Repr, Inhabited

/-- The operands of a BLOCK or PAGE descriptor (R63), from bit 2 up. The output address is bits 47:`b`; the bits
of `address` below `b` are ignored. -/
structure LeafFields where
  /-- Bits 4:2, AttrIndx in stage 1, MemAttr[2:0] in stage 2. -/
  attrIndx : BitVec 3
  /-- Bit 5, NS in stage 1, MemAttr[3] in stage 2. -/
  ns : Bit
  /-- Bits 7:6, AP[2:1]. -/
  ap : BitVec 2
  /-- Bits 9:8, SH. -/
  sh : BitVec 2
  /-- Bit 10, the access flag. -/
  af : Bit
  /-- Bit 11, not global. -/
  nG : Bit
  /-- Bits 47:12. -/
  address : BitVec 36
  /-- Bits 51:48. -/
  ignoredMid : BitVec 4
  /-- Bit 52, Contiguous. -/
  contiguous : Bit
  /-- Bit 53, PXN. -/
  pxn : Bit
  /-- Bit 54, XN. -/
  xn : Bit
  /-- Bits 63:55. -/
  ignoredHigh : BitVec 9
deriving DecidableEq, Repr, Inhabited

/-- A descriptor, decoded at its level. -/
inductive Instr where
  /-- INVALID: bit 0 clear (R115). `rest` is bits 63:1. -/
  | invalid (rest : BitVec 63)
  /-- RESERVED_L3: '01' at level 3 (R115). `rest` is bits 63:2. -/
  | reservedL3 (rest : BitVec 62)
  /-- BLOCK: '01' at level 0, 1 or 2 (R116). -/
  | block (fields : LeafFields)
  /-- TABLE: '11' at level 0, 1 or 2 (R117 to R120). -/
  | table (fields : TableFields)
  /-- PAGE: '11' at level 3 (R116). -/
  | page (fields : LeafFields)
deriving DecidableEq, Repr, Inhabited

end Sys2Proof
end

