-- ==== Sys2Proof/Machine/Invalid.lean ====
section
/-! DEFINITION. The classes INVALID and RESERVED_L3 (spec/42_walk_loop.md R115). -/

namespace Sys2Proof.Machine

/-- INVALID: a Translation fault at the current level; bits 63:1 are ignored (R115). -/
def execInvalid (_rest : BitVec 63) (s : State) : Host.Outcome State Fault Refusal :=
  .next (raiseTranslationFault s)

/-- RESERVED_L3: a Translation fault at level 3; bits 63:2 are ignored (R115). -/
def execReservedL3 (_rest : BitVec 62) (s : State) : Host.Outcome State Fault Refusal :=
  .next (raiseTranslationFault s)

end Sys2Proof.Machine
end

