-- ==== Sys2Proof/WellFormed.lean ====
section
/-! DEFINITION. Well-formedness: the level at which a descriptor class exists (spec/30_encoding.md R61) and the
preconditions on a configuration (spec/00_scope.md R4). -/

namespace Sys2Proof

/-- The class of the descriptor exists at this level (R61, column "level"). -/
def Instr.wellFormedAt (level : Nat) (i : Instr) : Bool :=
  match i with
  | .invalid _ => decide (level ≤ 3)
  | .reservedL3 _ => level == 3
  | .block _ => decide (level < 3)
  | .table _ => decide (level < 3)
  | .page _ => level == 3

/-- `1 <= PAMax()` (R4, D17). -/
def Config.wellFormed (c : Config) : Bool := decide (1 ≤ c.paMax)

/-- `48 <= top <= 63` for the answer of `AddrTop` (R4, D16). -/
def topWellFormed (top : Nat) : Bool := decide (48 ≤ top) && decide (top ≤ 63)

end Sys2Proof
end

