-- ==== Sys2Proof/Decode.lean ====
section
/-! DEFINITION. The decoder and the encoder of descriptors (spec/30_encoding.md R60 to R63). What a word stands
for depends on the level of the walk (R60). -/

namespace Sys2Proof

open Sys2Proof.Machine

/-- Why a list of bytes is no descriptor. -/
inductive DecodeError where
  /-- A descriptor is 8 bytes, read whole (R60). -/
  | notEightBytes
  /-- The levels are 0 to 3 (R60, R61). -/
  | noSuchLevel
deriving DecidableEq, Repr

/-- One row of the decode table of R61. -/
structure OpcodeRow where
  mnemonic : String
  mask : Descriptor
  pattern : Descriptor
  levels : List Nat
deriving DecidableEq, Repr

/-- The decode table of R61, row by row. -/
def opcodeRows : List OpcodeRow :=
  [ { mnemonic := "INVALID", mask := 0x1#64, pattern := 0x0#64, levels := [0, 1, 2, 3] },
    { mnemonic := "RESERVED_L3", mask := 0x3#64, pattern := 0x1#64, levels := [3] },
    { mnemonic := "BLOCK", mask := 0x3#64, pattern := 0x1#64, levels := [0, 1, 2] },
    { mnemonic := "TABLE", mask := 0x3#64, pattern := 0x3#64, levels := [0, 1, 2] },
    { mnemonic := "PAGE", mask := 0x3#64, pattern := 0x3#64, levels := [3] } ]

/-- The row's mnemonic of a decoded descriptor. -/
def Instr.mnemonic (i : Instr) : String :=
  match i with
  | .invalid _ => "INVALID"
  | .reservedL3 _ => "RESERVED_L3"
  | .block _ => "BLOCK"
  | .table _ => "TABLE"
  | .page _ => "PAGE"

/-- The operands of a BLOCK or PAGE descriptor (R63). -/
def decodeLeaf (w : Descriptor) : LeafFields :=
  { attrIndx := w.extractLsb' 2 3
    ns := w.extractLsb' 5 1
    ap := w.extractLsb' 6 2
    sh := w.extractLsb' 8 2
    af := w.extractLsb' 10 1
    nG := w.extractLsb' 11 1
    address := w.extractLsb' 12 36
    ignoredMid := w.extractLsb' 48 4
    contiguous := w.extractLsb' 52 1
    pxn := w.extractLsb' 53 1
    xn := w.extractLsb' 54 1
    ignoredHigh := w.extractLsb' 55 9 }

/-- The operands of a TABLE descriptor (R62). -/
def decodeTable (w : Descriptor) : TableFields :=
  { ignoredLow := w.extractLsb' 2 10
    address := w.extractLsb' 12 36
    ignoredMid := w.extractLsb' 48 11
    pxnTable := w.extractLsb' 59 1
    xnTable := w.extractLsb' 60 1
    apTable := w.extractLsb' 61 2
    nsTable := w.extractLsb' 63 1 }

/-- The descriptor that a word is at a level (R61, R115, R116): every word at levels 0 to 3 is one. -/
def decodeWord (level : Nat) (w : Descriptor) : Except DecodeError Instr :=
  if 3 < level then .error .noSuchLevel
  else if bit w 0 = 0#1 then .ok (.invalid (w.extractLsb' 1 63))
  else if bit w 1 = 0#1 then
    if level = 3 then .ok (.reservedL3 (w.extractLsb' 2 62)) else .ok (.block (decodeLeaf w))
  else if level = 3 then .ok (.page (decodeLeaf w))
  else .ok (.table (decodeTable w))

/-- The descriptor that a list of bytes at ascending addresses is at a level, stored little-endian (R45). -/
def decode (level : Nat) (bytes : List Byte) : Except DecodeError Instr :=
  match bytes with
  | [b0, b1, b2, b3, b4, b5, b6, b7] => decodeWord level (fromBytes b0 b1 b2 b3 b4 b5 b6 b7)
  | _ => .error .notEightBytes

/-- The word of a BLOCK or PAGE descriptor (R63), `low` its bits 1:0. -/
def encodeLeaf (low : BitVec 2) (f : LeafFields) : Descriptor :=
  f.ignoredHigh ++ f.xn ++ f.pxn ++ f.contiguous ++ f.ignoredMid ++ f.address ++ f.nG ++ f.af ++ f.sh ++ f.ap ++
    f.ns ++ f.attrIndx ++ low

/-- The word of a TABLE descriptor (R62). -/
def encodeTable (f : TableFields) : Descriptor :=
  f.nsTable ++ f.apTable ++ f.xnTable ++ f.pxnTable ++ f.ignoredMid ++ f.address ++ f.ignoredLow ++ 0b11#2

/-- The word of a descriptor (R61 to R63). -/
def encode (i : Instr) : Descriptor :=
  match i with
  | .invalid rest => rest ++ 0b0#1
  | .reservedL3 rest => rest ++ 0b01#2
  | .block f => encodeLeaf 0b01#2 f
  | .table f => encodeTable f
  | .page f => encodeLeaf 0b11#2 f

/-- The level at which `decodeTableWord` reads a word and `State.withFetchWord` places the walk: the words of
BLOCK and RESERVED_L3, and of TABLE and PAGE, differ by the level alone (R60; log entry 17). -/
def tableWordLevel : Nat := 2

/-- The instruction the decoder reads at level `tableWordLevel` from a word whose low `nbits` bits are those of
`w` and whose other bits are 0, laid out in memory byte by byte. -/
def decodeTableWord (nbits w : Nat) : Option Instr :=
  match decode tableWordLevel (toBytes (BitVec.ofNat 64 (w % 2 ^ nbits))) with
  | .ok i => if nbits ≤ 64 then some i else none
  | .error _ => none

end Sys2Proof
end

