-- ==== Sys2Proof/Machine/Flags.lean ====
section
/-! DEFINITION. The unit has no condition flags (spec/10_state.md R20). Its attribute bits: the accumulation of the
table attributes (spec/42_walk_loop.md R119), the permissions and nG of the result (spec/43_walk_result.md R139,
R141). -/

namespace Sys2Proof.Machine

/-- `ap_table` after a table descriptor (R119): bit 1 takes bit 62, and bit 0 takes bit 61 but in a regime of one
privilege level. -/
def accumulateAp (singlepriv : Bool) (desc : Descriptor) (apTable : BitVec 2) : BitVec 2 :=
  apTable ||| (bit desc 62 ++ (if singlepriv then 0#1 else bit desc 61) : BitVec 2)

/-- The four accumulators after a table descriptor (R119); a stage 2 walk leaves them. -/
def accumulateTable (secondstage : Bool) (desc : Descriptor) (v : Vars) : Vars :=
  if secondstage then v
  else
    { v with
      nsTable := v.nsTable ||| bit desc 63
      apTable := accumulateAp v.params.singlepriv desc v.apTable
      xnTable := v.xnTable ||| bit desc 60
      pxnTable := if v.params.singlepriv then v.pxnTable else v.pxnTable ||| bit desc 59 }

/-- `result.perms` (R139 for stage 1, R141 for stage 2) from the descriptor's fields and the accumulators. -/
def resultPerms (secondstage : Bool) (v : Vars) : Permissions :=
  if secondstage then
    { ap := (bit v.ap 2 ++ bit v.ap 1 ++ 1#1 : BitVec 3), xn := v.xn, pxn := 0#1 }
  else
    { ap :=
        (bit v.ap 2 ||| bit v.apTable 1) ++
          (if v.params.singlepriv then 1#1 else bit v.ap 1 &&& ~~~(bit v.apTable 0)) ++ 1#1
      xn := v.xn ||| v.xnTable
      pxn := if v.params.singlepriv then 0#1 else v.pxn ||| v.pxnTable }

/-- `result.nG` (R139, R141): pages from Non-secure tables are marked non-global in Secure EL1&0. -/
def resultNG (secondstage : Bool) (v : Vars) : Bit :=
  if secondstage || v.params.singlepriv then 0#1
  else if v.secure then v.nG ||| v.nsTable
  else v.nG

/-- `result.addrdesc.memattrs` (R140, R141). -/
def resultMemattrs (secondstage : Bool) (acctype : AccType) (v : Vars) : MemoryAttributes :=
  if secondstage then .s2Attr v.sh v.memattr acctype
  else .s1Attr v.sh (v.memattr.extractLsb' 0 3) acctype

/-- `result.addrdesc.paddress.NS` (R140, R141). -/
def resultNs (secondstage : Bool) (v : Vars) : Bit :=
  if secondstage then 1#1 else bit v.memattr 3 ||| v.nsTable

end Sys2Proof.Machine
end

