-- ==== Sys2Proof/Machine/Leaf.lean ====
section
/-! DEFINITION. The classes BLOCK and PAGE: the exit of the loop (spec/42_walk_loop.md R116), the checks after it
and the result (spec/43_walk_result.md R130 to R144). -/

namespace Sys2Proof.Machine

/-- The contiguous bit misprogramming test (R131). -/
def contiguousCheck (v : Vars) : Bool :=
  if v.params.largegrain then v.level == 2 && decide (v.params.inputsize < 34)
  else if v.params.midgrain then v.level == 2 && decide (v.params.inputsize < 30)
  else v.level == 1 && decide (v.params.inputsize < 34)

/-- The variables when a leaf descriptor passes R130: the loop left (R116), the test of R131 made. -/
def leafVars (v : Vars) : Vars := { v with blocktranslate := true, contiguousbitcheck := contiguousCheck v }

/-- The descriptor's fields unpacked (R137). -/
def unpackVars (desc : Descriptor) (v : Vars) : Vars :=
  { v with
    outputaddress := joinOffset desc v.params.inputaddr v.addrselectbottom
    xn := bit desc 54
    pxn := bit desc 53
    contiguousbit := bit desc 52
    nG := bit desc 11
    sh := slice desc 9 8
    ap := slice desc 7 6 ++ 1#1
    memattr := slice desc 5 2 }

/-- The record returned on success, from the unpacked variables (R138 to R142). `domain` is UNKNOWN: a free value
(log entry 6). -/
def translationOf (c : Call) (tick : Nat) (v : Vars) : Translation :=
  { paddress := { physicaladdress := v.outputaddress, ns := resultNs c.secondstage v }
    memattrs := resultMemattrs c.secondstage c.acctype v
    domain := Config.unknownDomain tick
    level := v.level
    blocksize := 2 ^ selectBottom v.level v.params.stride v.params.grainsize
    perms := resultPerms c.secondstage v
    nG := resultNG c.secondstage v
    contiguous := v.contiguousbit == 1#1 }

/-- A block or page descriptor, in the source's order (R156): the loop is left (R116), then the block level
(R130), the contiguous bit (R131, R132), the output address size (R135), the access flag (R136), the result
(R137 to R142). -/
def finishWalk (desc : Descriptor) (s : State) : State :=
  if s.vars.level < s.vars.params.firstblocklevel then
    raiseTranslationFault (s.withVars { s.vars with blocktranslate := true })
  else
    let s' := s.withVars (leafVars s.vars)
    if s'.vars.contiguousbitcheck && bit desc 52 == 1#1 && s'.config.contigFault then raiseTranslationFault s'
    else if exceedsOutputSize s'.vars.outputsize desc then raiseAddressSizeFault s'
    else if bit desc 10 = 0#1 then raiseAccessFlagFault s'
    else
      let v := unpackVars desc s'.vars
      returnTranslation (translationOf s'.call s'.tick v) (s'.withVars v)

/-- BLOCK (R116, R130 to R142). -/
def execBlock (fields : LeafFields) (s : State) : Host.Outcome State Fault Refusal :=
  .next (finishWalk (encodeLeaf 0b01#2 fields) s)

/-- PAGE (R116, R130 to R142): a page always passes R130 (`firstblocklevel` is at most 3) and R131. -/
def execPage (fields : LeafFields) (s : State) : Host.Outcome State Fault Refusal :=
  .next (finishWalk (encodeLeaf 0b11#2 fields) s)

end Sys2Proof.Machine
end

