-- ==== Sys2Proof/Machine/Table.lean ====
section
/-! DEFINITION. The class TABLE (spec/42_walk_loop.md R117 to R120). -/

namespace Sys2Proof.Machine

/-- The variables after a table descriptor whose address fits: the next table (R118), the accumulators (R119),
one level down (R120). -/
def descendVars (secondstage : Bool) (desc : Descriptor) (v : Vars) : Vars :=
  { accumulateTable secondstage desc v with
    baseaddress := tableAddress desc v.params.grainsize
    level := v.level + 1
    addrselecttop := v.addrselectbottom - 1
    blocktranslate := false }

/-- A table descriptor: the address size check (R117), then the next table. -/
def descend (desc : Descriptor) (s : State) : State :=
  if exceedsOutputSize s.vars.outputsize desc then raiseAddressSizeFault s
  else s.withVars (descendVars s.call.secondstage desc s.vars)

/-- TABLE (R117 to R120). -/
def execTable (fields : TableFields) (s : State) : Host.Outcome State Fault Refusal :=
  .next (descend (encodeTable fields) s)

end Sys2Proof.Machine
end

