-- ==== Sys2Proof/Machine/Dispatch.lean ====
section
/-! DEFINITION. The dispatch: one arm per descriptor class (spec/30_encoding.md R61). -/

namespace Sys2Proof.Machine

def exec (i : Instr) (s : State) : Host.Outcome State Fault Refusal :=
  match i with
  | .invalid rest => Sys2Proof.Machine.execInvalid rest s
  | .reservedL3 rest => Sys2Proof.Machine.execReservedL3 rest s
  | .block fields => Sys2Proof.Machine.execBlock fields s
  | .table fields => Sys2Proof.Machine.execTable fields s
  | .page fields => Sys2Proof.Machine.execPage fields s

end Sys2Proof.Machine
end

