-- ==== Sys2Proof/Machine/Fetch.lean ====
section
/-! DEFINITION. The fetch of a descriptor: its address (spec/42_walk_loop.md R111), stage 2 of it (R112), the read
and the byte reversal (R113, R114), the decoding at the level of the walk (R115, R116). -/

namespace Sys2Proof.Machine

/-- The variables with the descriptor's address computed (R111). -/
def addressVars (v : Vars) : Vars :=
  let bottom := selectBottom v.level v.params.stride v.params.grainsize
  let index := tableIndex v.params.inputaddr v.addrselecttop bottom
  { v with
    addrselectbottom := bottom
    index := index
    descaddr :=
      { memattrs := v.descaddr.memattrs
        paddress := { physicaladdress := v.baseaddress ||| index, ns := v.nsTable } } }

/-- The request of the descriptor read: `descaddr2` with the virtual address (R113) and `AccType_PTW` (R44). -/
def readRequest (memattrs : MemoryAttributes) (p : FullAddress) (c : Call) : ReadRequest :=
  { memattrs := memattrs, paddress := p, vaddress := c.vaddress, acctype := .ptw }

/-- `desc` as the walk decodes it: byte-reversed if the regime's descriptors are big-endian (R45, R114). -/
def orderDescriptor (reversedescriptors : Bool) (v : BitVec 64) : Descriptor :=
  if reversedescriptors then bigEndianReverse v else v

/-- The state after the descriptor read of a request (R113, R114). The read changes no byte of memory: that table
memory is no device with read side effects is a DESIGN CHOICE (R48 leaves it open; log entry 36). -/
def readDescriptor (r : ReadRequest) (s : State) : State :=
  { s with
    vars :=
      { s.vars with
        descaddr2 := r
        desc := orderDescriptor s.vars.params.reversedescriptors (memRead s r.paddress)
        reads := s.vars.reads + 1 }
    tick := s.tick + 1 }

/-- What one iteration of the loop comes to before the descriptor's own effect. -/
inductive Fetched where
  /-- Stage 2 of the descriptor address gave a fault, which the walk has returned (R112, R154). -/
  | returned (s : State)
  /-- The descriptor read, and the state after the read. -/
  | descriptor (i : Instr) (s : State)
  /-- The level is above 3. -/
  | noSuchLevel
deriving DecidableEq, Repr

/-- The read of a request and the decoding of what it gives, at the level of the walk (R114 to R116). -/
def fetchRequest (r : ReadRequest) (s : State) : Fetched :=
  let s' := readDescriptor r s
  match decodeWord s'.vars.level s'.vars.desc with
  | .ok i => .descriptor i s'
  | .error _ => .noSuchLevel

/-- One iteration's fetch (R111 to R114). -/
def fetch (s : State) : Fetched :=
  let s1 := s.withVars (addressVars s.vars)
  if descaddrNeedsStage2 s1 then
    let d := stage2Answer s1
    let s2 := { s1 with stage2 := s1.stage2.tail }
    if isFault d.fault then .returned (returnFault d.fault { s2 with tick := s2.tick + 1 })
    else fetchRequest (readRequest d.memattrs d.paddress s2.call) s2
  else fetchRequest (readRequest s1.vars.descaddr.memattrs s1.vars.descaddr.paddress s1.call) s1

/-- The parameters of the walk that `State.withFetchWord` places (log entry 17): stage 1, mid grain, 36 input
bits, so that the first table is a level 2 table. -/
def loadParams : WalkParams :=
  { WalkParams.reset with
    inputsize := 36
    midgrain := true
    basefound := true
    ps := 0b101#3
    lookupsecure := true
    grainsize := 14
    firstblocklevel := 2
    stride := 11
    level := 2 }

/-- The walk variables that `State.withFetchWord` places (log entry 17): a Secure walk about to read the
descriptor of level `tableWordLevel` at address 0 of the Secure space. -/
def loadVars : Vars :=
  { Vars.reset with
    params := loadParams
    secure := true
    level := tableWordLevel
    outputsize := 48
    baselowerbound := 14
    addrselecttop := 35 }

/-- The descriptor that `State.withFetchWord` stores. -/
def loadValue (nbits w : Nat) : SlotValue :=
  { ns := 0#1, slot := 0#45, value := BitVec.ofNat 64 (w % 2 ^ nbits) }

/-- A walk placed so that the walker's next move reads and runs one descriptor (log entry 17): the walk, its
descriptor in memory with no racing value, and the walker's turn. -/
def placeDescriptor (nbits w : Nat) (s : State) : State :=
  { s with
    phase := .fetching
    call := Call.reset
    vars := loadVars
    result := none
    mem := s.mem.store64 (loadValue nbits w)
    superseded := s.superseded.filter (fun e => !overlapsRead 0#1 0 e)
    inputs := .walker :: s.inputs }

end Sys2Proof.Machine
end

