-- ==== Sys2Proof/Machine/Entry.lean ====
section
/-! DEFINITION. The entry of a walk: the assertions (spec/40_walk_entry.md R82), the derivation of the parameters
(spec/41_walk_parameters.md R90 to R96), the checks before the first read and the first table (R97 to R101). -/

namespace Sys2Proof.Machine

/-- `ELUsingAArch32(el)` (R82). -/
def elUsingAArch32 (r : Registers) (el : EL) : Bool :=
  match el with
  | .el0 => r.usingAArch32.el0
  | .el1 => r.usingAArch32.el1
  | .el2 => r.usingAArch32.el2
  | .el3 => r.usingAArch32.el3

/-- The entry assertions (R82). -/
def entryAssertion (cfg : Config) (r : Registers) (secondstage : Bool) : Bool :=
  if secondstage then
    cfg.haveEL2 && !r.secure && !elUsingAArch32 r .el2 && r.pstateEl != .el2
  else !elUsingAArch32 r r.s1Regime

/-- `inputsize` and its constrained-unpredictable cases (R92). -/
def deriveInputsize (t0sz : Nat) (draw : Constraint) : Int :=
  let n : Int := 64 - (t0sz : Int)
  let n := if 48 < n ∧ draw = .force then 48 else n
  if n < 25 ∧ draw = .force then 25 else n

/-- The row of the grain table that `largegrain` and `midgrain` select (R95). Every machine has
all three rows (DESIGN CHOICE, log entry 35). -/
def grainRow (g : GrainTable) (largegrain midgrain : Bool) : GrainRow :=
  if largegrain then g.large else if midgrain then g.mid else g.small

/-- The start level (R96). -/
def startLevel (inputsize : Int) (grainsize stride : Nat) : Int :=
  4 - roundUpDiv (inputsize - (grainsize : Int)) (stride : Int)

/-- `basefound` (R93); the slice is taken only when the input size is legal (R8). -/
def deriveBasefound (inputaddr : BitVec 64) (top : Nat) (inputsize : Int) : Bool :=
  decide (25 ≤ inputsize) && decide (inputsize ≤ 48) && isZero (slice inputaddr top inputsize.toNat)

/-- The parameter record of the admitted walk: stage 1 of EL1&0, lower half (R91 to R96, R102). -/
def admittedParams (cfg : Config) (r : Registers) (c : Call) : WalkParams :=
  let inputsize := deriveInputsize r.tcrEl1.t0sz c.draw
  let largegrain := r.tcrEl1.tg0 == 0b01#2
  let midgrain := r.tcrEl1.tg0 == 0b10#2
  let row := grainRow cfg.grain largegrain midgrain
  let stride := row.grainsize - 3
  { inputaddr := c.vaddress
    inputsize := inputsize
    largegrain := largegrain
    midgrain := midgrain
    basefound := deriveBasefound c.vaddress c.top inputsize
    disabled := r.tcrEl1.epd0 == 1#1
    baseregister := r.ttbr0El1
    memattrs := .walkAttr r.tcrEl1.sh0 r.tcrEl1.orgn0 r.tcrEl1.irgn0
    ps := r.tcrEl1.ips
    reversedescriptors := r.sctlrEl1Ee == 1#1
    lookupsecure := r.secure
    singlepriv := false
    grainsize := row.grainsize
    firstblocklevel := row.firstblocklevel
    stride := stride
    level := startLevel inputsize row.grainsize stride }

/-- `DeriveParams` (R90, R102): partial, refusing the walks whose derivation is lost (D2). That the stage 1 regime
is EL1&0 is read from `S1TranslationRegime()` (PRESUMED, log entry 14). -/
def deriveParams (cfg : Config) (r : Registers) (c : Call) : Except Refusal WalkParams :=
  if c.secondstage then .error .lostStage2Derivation
  else if r.s1Regime ≠ .el1 then .error .lostRegimeDerivation
  else if bit c.vaddress c.top ≠ 0#1 then .error .lostUpperHalfDerivation
  else .ok (admittedParams cfg r c)

/-- A parameter record with which every later slice is well formed (R6, R102; log entry 26): a grain of R95, and,
where the walk gets past R97, an input size of 25 to 48 bits, a start level of 0 to 3 and a first table of at
least two entries (R100). -/
def WalkParams.wellFormed (p : WalkParams) : Bool :=
  (p.grainsize == 12 || p.grainsize == 14 || p.grainsize == 16) && p.stride == p.grainsize - 3 &&
    decide (p.firstblocklevel ≤ 3) &&
    (!p.basefound || p.disabled ||
      (decide (25 ≤ p.inputsize) && decide (p.inputsize ≤ 48) && decide (0 ≤ p.level) && decide (p.level ≤ 3) &&
        decide (selectBottom p.level.toNat p.stride p.grainsize < p.inputsize.toNat)))

/-- `outputsize` before the cap (R98). -/
def psOutputsize (ps : BitVec 3) : Nat :=
  if ps = 0b000#3 then 32
  else if ps = 0b001#3 then 36
  else if ps = 0b010#3 then 40
  else if ps = 0b011#3 then 42
  else if ps = 0b100#3 then 44
  else 48

/-- `outputsize` (R98). -/
def outputSize (ps : BitVec 3) (paMax : Nat) : Nat :=
  if paMax < psOutputsize ps then paMax else psOutputsize ps

/-- `baselowerbound` (R100). -/
def baseLowerBound (p : WalkParams) : Nat :=
  3 + p.inputsize.toNat - selectBottom p.level.toNat p.stride p.grainsize

/-- The variables of a walk that has its parameters and has assigned nothing else (R33, R83, R93): the processor
state is sampled here (R25, R27). -/
def freshVars (p : WalkParams) (r : Registers) : Vars :=
  { Vars.reset with
    params := p
    secure := r.secure
    el := r.pstateEl
    descaddr := { Vars.reset.descaddr with memattrs := p.memattrs } }

/-- The variables at the head of the loop (R96, R98, R100, R101). -/
def loopVars (cfg : Config) (p : WalkParams) (r : Registers) : Vars :=
  { freshVars p r with
    level := p.level.toNat
    outputsize := outputSize p.ps cfg.paMax
    baselowerbound := baseLowerBound p
    baseaddress := tableAddress p.baseregister (baseLowerBound p)
    nsTable := if p.lookupsecure then 0#1 else 1#1
    addrselecttop := p.inputsize.toNat - 1 }

/-- The state of a walk that has begun: its arguments and parameters are set, no field of `result` is (R83). From now
on a TLB may hold its result (R50, R174; log entry 12). -/
def beginWalk (c : Call) (v : Vars) (s : State) : State :=
  { s with
    call := c
    vars := v
    result := none
    phase := .fetching
    madeWalks := { regs := s.regs, call := c, params := v.params } :: s.madeWalks }

/-- The function from R97 to the head of the loop, given the parameters (R97 to R101). -/
def startWalk (c : Call) (p : WalkParams) (s : State) : State :=
  let fresh := beginWalk c (freshVars p s.regs) s
  if !p.basefound || p.disabled then raiseTranslationFault fresh
  else if exceedsOutputSize (outputSize p.ps s.config.paMax) p.baseregister then raiseAddressSizeFault fresh
  else beginWalk c (loopVars s.config p s.regs) s

/-- A call of the walk (R80): refused where the assertions or the preconditions fail (R82, R157, D16, D17, D28),
else begun with the record supplied (D2) or derived (R90). -/
def enterWalk (c : Call) (supplied : Option WalkParams) (s : State) : Host.Outcome State Fault Refusal :=
  if !entryAssertion s.config s.regs c.secondstage then .refused .entryAssertion
  else if !s.config.wellFormed then .refused .paMaxTooSmall
  else if !topWellFormed c.top then .refused .addrTopOutOfRange
  else
    match (match supplied with
      | some p => Except.ok p
      | none => deriveParams s.config s.regs c) with
    | .error r => .refused r
    | .ok p => if p.wellFormed then .next (startWalk c p s) else .refused .illFormedParameters

end Sys2Proof.Machine
end

