-- ==== Sys2Proof/Machine/Translation.lean ====
section
/-! DEFINITION. A translation, the walk as a system with TLBs uses it (spec/70_reset_and_hazards.md R174,
spec/20_memory.md R50; log entry 12). -/

namespace Sys2Proof.Machine

/-- The processor's registers are now these; a TLB may still hold results of walks with the old ones (R50, R173). -/
def changeRegisters (r : Registers) (s : State) : State :=
  { s with regs := r, earlierRegisters := s.regs :: s.earlierRegisters }

/-- The parameter records with which a call could have been walked with register values of an earlier time: the one
derived from them, and, where that derivation is lost (R90) or the call is one with its record supplied (R102, D2), a
free one. -/
def earlierRecords (c : Call) (supplied : Option WalkParams) (s : State) (r : Registers) :
    List (Option WalkParams) :=
  match supplied, deriveParams s.config r c with
  | none, .ok _ => [none]
  | _, _ => [none, some (Config.earlierParams r c s.tick)]

/-- Two calls with one input address at one stage (R40, R41): a walk for the one tells what the other reads. -/
def sameInput (c d : Call) : Bool :=
  c.secondstage == d.secondstage &&
    (if c.secondstage then c.ipaddress == d.ipaddress else c.vaddress == d.vaddress)

/-- Walks with these registers were made on two records for one input: a register that the model does not hold has
changed between them, or a draw was answered differently. -/
def recordsDiffer (r : Registers) (made : List MadeWalk) : Bool :=
  made.any fun a => made.any fun b =>
    a.regs == r && b.regs == r && sameInput a.call b.call && a.params != b.params

/-- The earlier times of a translation, by their registers: those replaced since launch, and those of now where the
records show that the registers the model does not hold were others. -/
def earlierTimes (made : List MadeWalk) (s : State) : List Registers :=
  if recordsDiffer s.regs made then s.regs :: s.earlierRegisters else s.earlierRegisters

/-- The walks made since launch for the input of a call, but for those made as the walk of now is. -/
def otherWalks (c : Call) (now : State) : List MadeWalk :=
  now.madeWalks.filter fun w => sameInput w.call c && !(w.regs == now.regs && w.params == now.vars.params)

/-- The walk of a call as it stands after an entry with these register values, where it has a meaning; the registers
of now are left as they are, and the walk recorded is the one of now. -/
def entryAt (c : Call) (now s : State) (r : Registers) (supplied : Option WalkParams) : Option State :=
  match enterWalk c supplied { s with regs := r } with
  | .next t => some { t with regs := now.regs, madeWalks := now.madeWalks }
  | .fault _ => none
  | .refused _ => none

/-- The walks of a call other than the one of now (`now`, entered from `s`) that could have been made at an earlier
time since launch, each as it stands after its entry (R174): on every record with which a walk for the same input was
made since, and with the register values of every earlier time. Their reads answer values of earlier times as every
read does (R53, D12). That a register the model does not hold (R90's lost derivations read such) has changed only
where an input `registers` or two records for one input say so is a DESIGN CHOICE: where neither has come, a
translation with a supplied record returns no walk on another record (R50 leaves it open; log entry 12). -/
def staleEntries (c : Call) (supplied : Option WalkParams) (now s : State) : List State :=
  (otherWalks c now).filterMap (fun w => entryAt c now s w.regs (some w.params)) ++
    (earlierTimes now.madeWalks s).flatMap fun r => (earlierRecords c supplied s r).filterMap (entryAt c now s r)

/-- A translation: the walk of now, or any that could have been made at an earlier time since launch (R174), freely.
It is refused where the call of now is (the model's choice, log entry 12). -/
def enterTranslation (c : Call) (supplied : Option WalkParams) (s : State) : Host.Outcome State Fault Refusal :=
  match enterWalk c supplied s with
  | .next now =>
    match staleEntries c supplied now s with
    | [] => .next now
    | e :: rest =>
      .next { (now :: e :: rest).getD (Config.staleChoice s.tick % (rest.length + 2)) now with tick := s.tick + 1 }
  | .fault f => .fault f
  | .refused r => .refused r

end Sys2Proof.Machine
end

