-- ==== Sys2Proof/Machine/Walker.lean ====
section
/-! DEFINITION. A move of the walker (spec/42_walk_loop.md R110) and the arrival of a call (spec/40_walk_entry.md
R80). -/

namespace Sys2Proof.Machine

/-- One iteration of the loop (R110): the fetch of a descriptor, then the descriptor's own effect. -/
def iterate (s : State) : Host.Outcome State Fault Refusal :=
  match fetch s with
  | .returned s' => .next s'
  | .descriptor i s' => exec i s'
  | .noSuchLevel => .fault .noSuchLevel

/-- The walker moves: an iteration of the walk in progress, nothing where there is none (log entry 16). -/
def walkerMoves (s : State) : Host.Outcome State Fault Refusal :=
  match s.phase with
  | .idle => .next s
  | .fetching => iterate s

/-- A call arrives: it waits while a walk is in progress (log entry 30). -/
def callArrives (c : Call) (supplied : Option WalkParams) (rest : List Input) (s : State) :
    Host.Outcome State Fault Refusal :=
  match s.phase with
  | .idle => enterWalk c supplied { s with inputs := rest }
  | .fetching => iterate s

/-- A translation is asked for: it waits while a walk is in progress (log entry 30). -/
def translationArrives (c : Call) (supplied : Option WalkParams) (rest : List Input) (s : State) :
    Host.Outcome State Fault Refusal :=
  match s.phase with
  | .idle => enterTranslation c supplied { s with inputs := rest }
  | .fetching => iterate s

end Sys2Proof.Machine
end

