-- ==== Sys2Proof/Machine/Step.lean ====
section
/-! DEFINITION. One step of the machine (spec/42_walk_loop.md R110; log entry 15): the head of `inputs` says who
moves. -/

namespace Sys2Proof.Machine

/-- One step: the head of `inputs`, or the walker where there is none. -/
def step (s : State) : Host.Outcome State Fault Refusal :=
  match s.inputs with
  | [] => walkerMoves s
  | .walker :: rest => walkerMoves { s with inputs := rest }
  | .memoryWrite w :: rest => .next (externalWrite w { s with inputs := rest })
  | .registers r :: rest => .next (changeRegisters r { s with inputs := rest })
  | .call c :: rest => callArrives c none rest s
  | .translate c supplied :: rest => translationArrives c supplied rest s
  | .callWith c p :: rest => callArrives c (some p) rest s

/-- The state in which the next step reads and runs the descriptor whose low `nbits` bits are those of `w`, its
other bits 0 (log entry 17). -/
def State.withFetchWord (s : State) (nbits w : Nat) : State := placeDescriptor nbits w s

end Sys2Proof.Machine
end

