-- ==== Sys2Proof/Safety.lean ====
section
/-! DEFINITION. What a sound state of the walker is, in the terms the statements use. -/

namespace Sys2Proof.Machine

/-- The lowest address bit that indexes the table the walk is at (R111). -/
def Vars.bottom (v : Vars) : Nat := selectBottom v.level v.params.stride v.params.grainsize

/-- The size of the table the walk is at, as a power of two: 8 bytes for each entry that the address bits
`addrselecttop` down to `bottom` can name (R100, R118). -/
def Vars.tableBits (v : Vars) : Nat := v.addrselecttop + 4 - v.bottom

/-- The variables at the head of the loop (R110) of a walk in progress. -/
structure Vars.LoopInv (v : Vars) : Prop where
  /-- One of the three grains of R95. -/
  grain : v.params.grainsize = 12 ∨ v.params.grainsize = 14 ∨ v.params.grainsize = 16
  stride : v.params.stride = v.params.grainsize - 3
  firstblock : v.params.firstblocklevel ≤ 3
  /-- R97 was passed. -/
  based : v.params.basefound = true ∧ v.params.disabled = false
  /-- The input size is legal (R93). -/
  inputsize : 25 ≤ v.params.inputsize ∧ v.params.inputsize ≤ 48
  /-- The levels run from the start level to 3 (R121). -/
  levels : 0 ≤ v.params.level ∧ v.params.level.toNat ≤ v.level ∧ v.level ≤ 3
  /-- One read for each level above this one (R114, R121). -/
  reads : v.reads + v.params.level.toNat = v.level
  /-- The address bits that index this table (R111): at least one, below bit 48. -/
  select : v.bottom ≤ v.addrselecttop ∧ v.addrselecttop < 48
  /-- After the first level exactly `stride` bits index a table (R111). -/
  later : v.params.level.toNat < v.level → v.addrselecttop + 1 = v.bottom + v.params.stride
  /-- A table is aligned to its size (R47). -/
  aligned : v.baseaddress.toNat % 2 ^ v.tableBits = 0
  /-- A table address fits the output size (R42). -/
  outputsize : v.outputsize ≤ 48
  fits : v.baseaddress.toNat < 2 ^ v.outputsize
  /-- A Non-secure lookup stays Non-secure (R119). -/
  nonsecure : v.params.lookupsecure = false → v.nsTable = 1#1

/-- The invariant of the machine: memory is in its canonical form, and a walk in progress is at the head of the
loop with no result yet. -/
structure State.Inv (s : State) : Prop where
  mem : s.mem.wf = true
  loop : s.phase = .fetching → s.vars.LoopInv
  open_ : s.phase = .fetching → s.result = none

/-- What no descriptor changes (R27, R34, R46): everything but the walk variables, the phase and the result.
Memory is compared byte by byte, through the machine's own read of one byte. -/
structure SameSurroundings (s t : State) : Prop where
  config : t.config = s.config
  regs : t.regs = s.regs
  call : t.call = s.call
  bytes : ∀ (ns : Bit) (a : Nat), t.mem.byte ns a = s.mem.byte ns a
  superseded : t.superseded = s.superseded
  earlierRegisters : t.earlierRegisters = s.earlierRegisters
  madeWalks : t.madeWalks = s.madeWalks
  inputs : t.inputs = s.inputs
  stage2 : t.stage2 = s.stage2

/-- A walk has ended with this result (R150, R142). -/
structure Returned (r : WalkResult) (t : State) : Prop where
  result : t.result = some r
  phase : t.phase = .idle

/-- `outputsize == 48` or bits 47:outputsize of the value are all zero (R99, R117, R135). -/
def FitsOutputSize (outputsize : Nat) (v : BitVec 64) : Prop :=
  outputsize = 48 ∨ ∀ k, outputsize ≤ k → k < 48 → v.getLsbD k = false

/-- The three lines of R131: a block at the largest block level, in too small an address space. -/
def Misprogrammed (v : Vars) : Prop :=
  (v.params.largegrain = true ∧ v.level = 2 ∧ v.params.inputsize < 34) ∨
  (v.params.largegrain = false ∧ v.params.midgrain = true ∧ v.level = 2 ∧ v.params.inputsize < 30) ∨
  (v.params.largegrain = false ∧ v.params.midgrain = false ∧ v.level = 1 ∧ v.params.inputsize < 34)

/-- The fault of R132 does not apply: the contiguous bit is clear, or the implementation ignores the
misprogramming, or there is none. -/
def ContiguousAccepted (desc : Descriptor) (s : State) : Prop :=
  desc.getLsbD 52 = false ∨ s.config.contigFault = false ∨ ¬ Misprogrammed s.vars

/-- A block or page descriptor passes every check after the loop (R130, R132, R135, R136). -/
structure LeafAccepted (desc : Descriptor) (s : State) : Prop where
  level : s.vars.params.firstblocklevel ≤ s.vars.level
  contiguous : ContiguousAccepted desc s
  fits : FitsOutputSize s.vars.outputsize desc
  accessFlag : desc.getLsbD 10 = true

/-- The descriptor address of the walk (R111): the table's address and the index of the input address. -/
def descriptorAddress (v : Vars) : FullAddress :=
  { physicaladdress := v.baseaddress ||| tableIndex v.params.inputaddr v.addrselecttop v.bottom, ns := v.nsTable }

/-- Memory holds a 64-bit value at an address, and no other agent's write races with a read of it. -/
structure MemoryHolds (s : State) (p : FullAddress) (v : BitVec 64) : Prop where
  bytes : ∀ k, k < 8 → s.mem.byte p.ns (p.physicaladdress.toNat + k) = some (byteOf v k)
  unraced : earlierValues s p.ns p.physicaladdress.toNat = []

/-- The condition under which a descriptor address is not translated by stage 2 (R112). -/
def SkipsStage2 (s : State) : Prop :=
  s.config.haveEL2 = false ∨ s.call.secondstage = true ∨ s.vars.secure = true ∨ s.vars.el = .el2

/-- The assertions of R82 hold for a call. -/
def AssertionsHold (s : State) (c : Call) : Prop :=
  (c.secondstage = false → elUsingAArch32 s.regs s.regs.s1Regime = false) ∧
  (c.secondstage = true →
    s.config.haveEL2 = true ∧ s.regs.secure = false ∧ elUsingAArch32 s.regs .el2 = false ∧ s.regs.pstateEl ≠ .el2)

/-- A call to which the function gives a meaning (R82, D16, D17), arriving at an idle walker. -/
structure CallAccepted (s : State) (c : Call) : Prop where
  idle : s.phase = .idle
  assertions : AssertionsHold s c
  paMax : 1 ≤ s.config.paMax
  top : 48 ≤ c.top ∧ c.top ≤ 63

/-- The admitted walk of R90: stage 1 of EL1&0, lower half. -/
structure AdmittedCall (s : State) (c : Call) : Prop where
  accepted : CallAccepted s c
  stage1 : c.secondstage = false
  regime : s.regs.s1Regime = .el1
  lowerHalf : c.vaddress.getLsbD c.top = false

/-- No TLB holds anything (R174): no walk has been made since launch, and nothing has been replaced that a translation
or a read could still answer. A claim about the machine after launch takes it as the premise on its launch state. -/
def NoTLBHoldsAnything (s : State) : Prop := s.superseded = [] ∧ s.earlierRegisters = [] ∧ s.madeWalks = []

/-- A parameter record of a call: of a walk made since launch, or of a call or translation that is to come. -/
def RecordOf (s : State) (c : Call) (p : WalkParams) : Prop :=
  (∃ w ∈ s.madeWalks, w.call = c ∧ w.params = p) ∨
  Input.callWith c p ∈ s.inputs ∨ Input.translate c (some p) ∈ s.inputs ∨
  ((Input.call c ∈ s.inputs ∨ Input.translate c none ∈ s.inputs) ∧ deriveParams s.config s.regs c = .ok p)

/-- Nothing a TLB holds is stale, and nothing will be: no table and no register has changed or is about to. Of the
registers that the model does not hold, the records tell: there is one for each input. -/
structure NothingStale (s : State) : Prop where
  superseded : s.superseded = []
  earlierRegisters : s.earlierRegisters = []
  noWrite : ∀ w, Input.memoryWrite w ∉ s.inputs
  noRegisterChange : ∀ r, Input.registers r ∉ s.inputs
  registers : ∀ w ∈ s.madeWalks, w.regs = s.regs
  oneRecord : ∀ (c d : Call) (p q : WalkParams), RecordOf s c p → RecordOf s d q → sameInput c d = true → p = q

/-- The launch premise of D13: no TLB holds anything, and neither a table nor a register is about to change. -/
structure TLBsEmptyAndTablesStatic (s : State) : Prop where
  empty : NoTLBHoldsAnything s
  static : NothingStale s

/-- A call or a translation at the head of the inputs. -/
def Asks (s : State) (c : Call) (rest : List Input) : Prop :=
  s.inputs = .call c :: rest ∨ (∃ p, s.inputs = .callWith c p :: rest) ∨
    ∃ supplied, s.inputs = .translate c supplied :: rest

/-- The call of the function, with or without a parameter record. -/
def callInput (c : Call) (supplied : Option WalkParams) : Input :=
  match supplied with
  | none => .call c
  | some p => .callWith c p

/-- The arguments a fault record of a call holds (R155). -/
def callFaultArgs (c : Call) (level : Nat) : FaultArgs :=
  { ipaddress := c.ipaddress, level := level, acctype := c.acctype, iswrite := c.iswrite,
    secondstage := c.secondstage, s2fs1walk := c.s2fs1walk }

/-- The head of `inputs` gives the walker the move (log entry 15). -/
def walkersTurn (s : State) : Prop := s.inputs = [] ∨ ∃ rest, s.inputs = .walker :: rest

end Sys2Proof.Machine
end

