-- ==== Sys2Proof/Certificates/Slice0/Obligations.lean ====
section
/-! DEFINITION. The statements for the provers: what the rules of spec/ say a descriptor, a walk and the machine
do. "The model's choice" marks a clause that rests on an entry of the assumption log. -/

open Sys2Proof Sys2Proof.Machine

/-! ## Decoding and encoding -/

/-- R61 to R63: at its level, every descriptor class decodes from its encoding with every operand. -/
def Obligations.DecodeOfEncodeIsTheDescriptor : Prop :=
  ∀ (level : Nat) (i : Instr), i.wellFormedAt level = true → decodeWord level (encode i) = .ok i

/-- R60 to R63: a decoded word is the encoding of what it decodes to, and the class exists at the level. -/
def Obligations.EncodeOfDecodeIsTheWord : Prop :=
  ∀ (level : Nat) (w : Descriptor) (i : Instr), decodeWord level w = .ok i →
    encode i = w ∧ i.wellFormedAt level = true

/-- R61: at each of the levels 0 to 3 every word has a class, and it is the one whose row matches. -/
def Obligations.EveryWordHasExactlyOneClass : Prop :=
  ∀ (level : Nat) (w : Descriptor), level ≤ 3 →
    ∃ i, decodeWord level w = .ok i ∧
      ∀ row ∈ opcodeRows, (level ∈ row.levels ∧ w &&& row.mask = row.pattern) ↔ row.mnemonic = i.mnemonic

/-- R60: a descriptor is eight bytes, and there is no level above 3. That other lists and levels are rejected by
name is the model's choice. -/
def Obligations.OnlyEightBytesAtLevelsZeroToThreeDecode : Prop :=
  ∀ (level : Nat) (bytes : List Byte),
    (∃ i, decode level bytes = .ok i) ↔ bytes.length = 8 ∧ level ≤ 3

/-- Words written out from R61 to R63 decode to the descriptors they stand for. -/
def Obligations.SampleWordsDecode : Prop :=
  decodeWord 0 0x2#64 = .ok (.invalid 0x1#63) ∧
  decodeWord 3 0x1#64 = .ok (.reservedL3 0x0#62) ∧
  decodeWord 1 0x2000000080008003#64 =
    .ok (.table { ignoredLow := 0#10, address := 0x80008#36, ignoredMid := 0#11, pxnTable := 0#1, xnTable := 0#1,
                  apTable := 0b01#2, nsTable := 0#1 }) ∧
  decodeWord 2 0x0040000146000721#64 =
    .ok (.block { attrIndx := 0#3, ns := 1#1, ap := 0#2, sh := 0b11#2, af := 1#1, nG := 0#1,
                  address := 0x146000#36, ignoredMid := 0#4, contiguous := 0#1, pxn := 0#1, xn := 1#1,
                  ignoredHigh := 0#9 }) ∧
  decodeWord 3 0x0060000090000F43#64 =
    .ok (.page { attrIndx := 0#3, ns := 0#1, ap := 0b01#2, sh := 0b11#2, af := 1#1, nG := 1#1,
                 address := 0x90000#36, ignoredMid := 0#4, contiguous := 0#1, pxn := 1#1, xn := 1#1,
                 ignoredHigh := 0#9 })

/-! ## The descriptors' effects -/

/-- No descriptor stops the machine: a fault of the walk is a returned record (R150). -/
def Obligations.EveryDescriptorCompletes : Prop :=
  ∀ (i : Instr) (s : State), ∃ t, exec i s = .next t

/-- R115: INVALID ends the walk with a Translation fault at the current level, and changes nothing else. -/
def Obligations.InvalidReturnsATranslationFault : Prop :=
  ∀ (rest : BitVec 63) (s : State),
    exec (.invalid rest) s =
      .next { s with
        result := some (.fault (.translation (callFaultArgs s.call s.vars.level)))
        phase := .idle }

/-- R115: RESERVED_L3 ends the walk with a Translation fault at the current level, and changes nothing else. -/
def Obligations.ReservedReturnsATranslationFault : Prop :=
  ∀ (rest : BitVec 62) (s : State),
    exec (.reservedL3 rest) s =
      .next { s with
        result := some (.fault (.translation (callFaultArgs s.call s.vars.level)))
        phase := .idle }

/-- R115, on words: bit 0 clear, or '01' at level 3, ends the walk with a Translation fault at `level`. -/
def Obligations.InvalidWordsFaultAtTheirLevel : Prop :=
  ∀ (s : State) (w : Descriptor) (i : Instr), decodeWord s.vars.level w = .ok i →
    w.getLsbD 0 = false ∨ (w.getLsbD 1 = false ∧ w.getLsbD 0 = true ∧ s.vars.level = 3) →
    exec i s =
      .next { s with
        result := some (.fault (.translation (callFaultArgs s.call s.vars.level)))
        phase := .idle }

/-- R117: a table descriptor with a one bit in 47:outputsize gives an Address size fault at its own level. -/
def Obligations.TableAddressTooBigFaults : Prop :=
  ∀ (f : TableFields) (s : State), ¬ FitsOutputSize s.vars.outputsize (encode (.table f)) →
    exec (.table f) s =
      .next { s with
        result := some (.fault (.addressSize (callFaultArgs s.call s.vars.level)))
        phase := .idle }

/-- R118 to R120: a table descriptor whose address fits gives the next table's address, the attributes
accumulated and the next level; nothing else changes. -/
def Obligations.TableGoesDownOneLevel : Prop :=
  ∀ (f : TableFields) (s : State), FitsOutputSize s.vars.outputsize (encode (.table f)) →
    ∃ v : Vars, exec (.table f) s = .next { s with vars := v } ∧
      (∀ k, k < 48 →
        v.baseaddress.getLsbD k = (decide (s.vars.params.grainsize ≤ k) && (encode (.table f)).getLsbD k)) ∧
      v.level = s.vars.level + 1 ∧ v.addrselecttop = s.vars.addrselectbottom - 1 ∧ v.blocktranslate = false ∧
      (s.call.secondstage = true →
        v.nsTable = s.vars.nsTable ∧ v.apTable = s.vars.apTable ∧ v.xnTable = s.vars.xnTable ∧
          v.pxnTable = s.vars.pxnTable) ∧
      (s.call.secondstage = false →
        v.nsTable = s.vars.nsTable ||| f.nsTable ∧
        v.apTable.getLsbD 1 = (s.vars.apTable.getLsbD 1 || f.apTable.getLsbD 1) ∧
        v.xnTable = s.vars.xnTable ||| f.xnTable ∧
        (s.vars.params.singlepriv = false →
          v.apTable.getLsbD 0 = (s.vars.apTable.getLsbD 0 || f.apTable.getLsbD 0) ∧
          v.pxnTable = s.vars.pxnTable ||| f.pxnTable) ∧
        (s.vars.params.singlepriv = true →
          v.apTable.getLsbD 0 = s.vars.apTable.getLsbD 0 ∧ v.pxnTable = s.vars.pxnTable)) ∧
      v = { s.vars with
            baseaddress := v.baseaddress, level := v.level, addrselecttop := v.addrselecttop
            blocktranslate := v.blocktranslate, nsTable := v.nsTable, apTable := v.apTable
            xnTable := v.xnTable, pxnTable := v.pxnTable }

/-- R130: a block or page descriptor at a level below `firstblocklevel` gives a Translation fault at its level,
whatever its other bits are. -/
def Obligations.LeafBelowFirstBlockLevelFaults : Prop :=
  ∀ (f : LeafFields) (s : State) (i : Instr), (i = .block f ∨ i = .page f) →
    s.vars.level < s.vars.params.firstblocklevel →
    ∃ t, exec i s = .next t ∧ SameSurroundings s t ∧
      Returned (.fault (.translation (callFaultArgs s.call s.vars.level))) t

/-- R131 and R132: a set contiguous bit in too small an address space gives a Translation fault where the
implementation chooses so. -/
def Obligations.MisprogrammedContiguousBitFaults : Prop :=
  ∀ (f : LeafFields) (s : State) (i : Instr), (i = .block f ∨ i = .page f) →
    s.vars.params.firstblocklevel ≤ s.vars.level → ¬ ContiguousAccepted (encode i) s →
    ∃ t, exec i s = .next t ∧ SameSurroundings s t ∧ t.vars.contiguousbitcheck = true ∧
      Returned (.fault (.translation (callFaultArgs s.call s.vars.level))) t

/-- R131: the test made for a descriptor that passes R130. -/
def Obligations.ContiguousTestIsTheThreeThresholds : Prop :=
  ∀ (f : LeafFields) (s t : State) (i : Instr), (i = .block f ∨ i = .page f) →
    s.vars.params.firstblocklevel ≤ s.vars.level → exec i s = .next t →
    (t.vars.contiguousbitcheck = true ↔ Misprogrammed s.vars)

/-- R135: an output address with a one bit in 47:outputsize gives an Address size fault, whatever the access flag
is (R156). -/
def Obligations.LeafAddressTooBigFaults : Prop :=
  ∀ (f : LeafFields) (s : State) (i : Instr), (i = .block f ∨ i = .page f) →
    s.vars.params.firstblocklevel ≤ s.vars.level → ContiguousAccepted (encode i) s →
    ¬ FitsOutputSize s.vars.outputsize (encode i) →
    ∃ t, exec i s = .next t ∧ SameSurroundings s t ∧
      Returned (.fault (.addressSize (callFaultArgs s.call s.vars.level))) t

/-- R136: a clear access flag gives an Access flag fault when the checks before it pass. -/
def Obligations.ClearAccessFlagFaults : Prop :=
  ∀ (f : LeafFields) (s : State) (i : Instr), (i = .block f ∨ i = .page f) →
    s.vars.params.firstblocklevel ≤ s.vars.level → ContiguousAccepted (encode i) s →
    FitsOutputSize s.vars.outputsize (encode i) → f.af = 0#1 →
    ∃ t, exec i s = .next t ∧ SameSurroundings s t ∧
      Returned (.fault (.accessFlag (callFaultArgs s.call s.vars.level))) t

/-- R137 to R144: what a block or page descriptor that passes every check returns, for both stages and for regimes
of one and of two privilege levels. `addrselectbottom` is what R111 made it in the last iteration. `domain` is
UNKNOWN and no clause speaks of it. -/
def Obligations.AcceptedLeafReturnsTheTranslation : Prop :=
  ∀ (f : LeafFields) (s : State) (i : Instr), (i = .block f ∨ i = .page f) → LeafAccepted (encode i) s →
    s.vars.addrselectbottom = s.vars.bottom → s.vars.bottom ≤ 47 →
    ∃ (t : State) (r : Translation), exec i s = .next t ∧ SameSurroundings s t ∧ t.tick = s.tick ∧
      Returned (.ok r) t ∧
      (∀ k, k < 48 → r.paddress.physicaladdress.getLsbD k =
        if k < s.vars.bottom then s.vars.params.inputaddr.getLsbD k else (encode i).getLsbD k) ∧
      r.paddress.ns = (if s.call.secondstage then 1#1 else f.ns ||| s.vars.nsTable) ∧
      r.memattrs =
        (if s.call.secondstage then .s2Attr f.sh (f.ns ++ f.attrIndx) s.call.acctype
         else .s1Attr f.sh f.attrIndx s.call.acctype) ∧
      r.perms.ap.getLsbD 2 = (f.ap.getLsbD 1 || (!s.call.secondstage && s.vars.apTable.getLsbD 1)) ∧
      r.perms.ap.getLsbD 1 =
        (if s.call.secondstage then f.ap.getLsbD 0
         else s.vars.params.singlepriv || (f.ap.getLsbD 0 && !s.vars.apTable.getLsbD 0)) ∧
      r.perms.ap.getLsbD 0 = true ∧
      r.perms.xn = (if s.call.secondstage then f.xn else f.xn ||| s.vars.xnTable) ∧
      r.perms.pxn =
        (if s.call.secondstage || s.vars.params.singlepriv then 0#1 else f.pxn ||| s.vars.pxnTable) ∧
      r.nG =
        (if s.call.secondstage || s.vars.params.singlepriv then 0#1
         else if s.vars.secure then f.nG ||| s.vars.nsTable else f.nG) ∧
      r.level = s.vars.level ∧
      r.blocksize = 2 ^ ((3 - s.vars.level) * s.vars.params.stride + s.vars.params.grainsize) ∧
      r.contiguous = f.contiguous.getLsbD 0

/-- R130 and R131: in a sound walk a page at level 3 always passes the block level and is never subject to the
contiguous test: it gives no Translation fault. -/
def Obligations.PageGivesNoTranslationFault : Prop :=
  ∀ (f : LeafFields) (s : State), s.vars.LoopInv → s.vars.level = 3 →
    ∃ t, exec (.page f) s = .next t ∧ ∀ a, t.result ≠ some (.fault (.translation a))

/-- R27, R34, R46: a descriptor changes the walk variables, the phase and the result and nothing else, and of the
variables neither the parameters nor the sampled processor state. -/
def Obligations.DescriptorsChangeOnlyTheWalk : Prop :=
  ∀ (i : Instr) (s t : State), exec i s = .next t →
    SameSurroundings s t ∧ t.tick = s.tick ∧ t.vars.params = s.vars.params ∧ t.vars.secure = s.vars.secure ∧
      t.vars.el = s.vars.el ∧ t.vars.reads = s.vars.reads ∧ t.vars.descaddr2 = s.vars.descaddr2 ∧
      t.vars.desc = s.vars.desc

/-- R119: every table attribute is sticky, whatever the descriptor. -/
def Obligations.TableAttributesAreSticky : Prop :=
  ∀ (i : Instr) (s t : State), exec i s = .next t →
    t.vars.nsTable = t.vars.nsTable ||| s.vars.nsTable ∧ t.vars.apTable = t.vars.apTable ||| s.vars.apTable ∧
      t.vars.xnTable = t.vars.xnTable ||| s.vars.xnTable ∧ t.vars.pxnTable = t.vars.pxnTable ||| s.vars.pxnTable

/-- R62: the ignored bits of a table descriptor have no effect: bits 58:48 and 11:2, and for a walk whose grain is
12 or more and whose output size is not below it, the address bits below `grainsize`. -/
def Obligations.IgnoredTableBitsHaveNoEffect : Prop :=
  ∀ (f g : TableFields) (s : State), 12 ≤ s.vars.params.grainsize →
    s.vars.params.grainsize ≤ s.vars.outputsize →
    f.pxnTable = g.pxnTable → f.xnTable = g.xnTable → f.apTable = g.apTable → f.nsTable = g.nsTable →
    (∀ k, s.vars.params.grainsize ≤ k + 12 → f.address.getLsbD k = g.address.getLsbD k) →
    exec (.table f) s = exec (.table g) s

/-- R63: the ignored bits of a block or page descriptor have no effect: bits 63:55 and 51:48, and where the output
size is not below `addrselectbottom`, the address bits below it. -/
def Obligations.IgnoredLeafBitsHaveNoEffect : Prop :=
  ∀ (f g : LeafFields) (s : State), 12 ≤ s.vars.addrselectbottom →
    s.vars.addrselectbottom ≤ s.vars.outputsize →
    g = { f with address := g.address, ignoredMid := g.ignoredMid, ignoredHigh := g.ignoredHigh } →
    (∀ k, s.vars.addrselectbottom ≤ k + 12 → f.address.getLsbD k = g.address.getLsbD k) →
    exec (.block f) s = exec (.block g) s ∧ exec (.page f) s = exec (.page g) s

/-! ## The fetch of a descriptor -/

/-- R111: the descriptor address. -/
def Obligations.DescriptorAddressIsBaseOrIndex : Prop :=
  ∀ (v : Vars),
    (addressVars v).addrselectbottom = (3 - v.level) * v.params.stride + v.params.grainsize ∧
    (∀ k, k < 48 → (addressVars v).index.getLsbD k =
      (decide (3 ≤ k) && decide (v.bottom + (k - 3) ≤ v.addrselecttop) &&
        v.params.inputaddr.getLsbD (v.bottom + (k - 3)))) ∧
    (addressVars v).descaddr.paddress.physicaladdress = v.baseaddress ||| (addressVars v).index ∧
    (addressVars v).descaddr.paddress.ns = v.nsTable

/-- R47: in a sound walk the descriptor address is a multiple of 8, is the table's address plus the index, and its
8 bytes lie inside the table. -/
def Obligations.DescriptorAddressIsAlignedInItsTable : Prop :=
  ∀ (v : Vars), v.LoopInv →
    let index := tableIndex v.params.inputaddr v.addrselecttop v.bottom
    let a := (descriptorAddress v).physicaladdress.toNat
    a = v.baseaddress.toNat + index.toNat ∧ a % 8 = 0 ∧ a + 8 ≤ v.baseaddress.toNat + 2 ^ v.tableBits

/-- R42: in a sound walk whose output size is not below the size of the table, every descriptor address is below
2^outputsize. -/
def Obligations.DescriptorAddressFitsTheOutputSize : Prop :=
  ∀ (v : Vars), v.LoopInv → v.tableBits ≤ v.outputsize →
    (descriptorAddress v).physicaladdress.toNat < 2 ^ v.outputsize

/-- R42: the output address of a successful walk is below 2^outputsize, where the output size is not below the
size of the mapping. -/
def Obligations.OutputAddressFitsTheOutputSize : Prop :=
  ∀ (f : LeafFields) (s t : State) (i : Instr) (r : Translation), (i = .block f ∨ i = .page f) →
    s.vars.addrselectbottom ≤ s.vars.outputsize → s.vars.outputsize ≤ 48 → exec i s = .next t →
    t.result = some (.ok r) → s.result = none → r.paddress.physicaladdress.toNat < 2 ^ s.vars.outputsize

/-- R45: with `EE == '0'` descriptor bit 8k+j is bit j of the byte at address + k, with `EE == '1'` of the byte at
address + 7 - k, for a read that no write races with. That memory itself is little-endian is an inference of the
spec (D3, log entry 4). -/
def Obligations.DescriptorBytesAreOrderedByEE : Prop :=
  ∀ (s : State) (p : FullAddress) (reversed : Bool) (k j : Nat), k < 8 → j < 8 →
    earlierValues s p.ns p.physicaladdress.toNat = [] →
    (orderDescriptor reversed (memRead s p)).getLsbD (8 * k + j) =
      (s.mem.answerByte p.ns s.tick (p.physicaladdress.toNat + if reversed then 7 - k else k)).getLsbD j

/-- R110 to R116: the walker's move reads the descriptor address and is the effect of the descriptor that the answer,
in the byte order of the regime, decodes to, whatever the read answers (R53, R175); where memory holds a value there
and no write races, the answer is that value (R44). The move uses up its turn, and the read is counted and its request
kept (R113, R44). The turn, the counter and the count of reads are the model's (log entries 15 and 29). -/
def Obligations.MoveRunsTheDescriptorInMemory : Prop :=
  (∀ (s : State) (i : Instr), s.phase = .fetching → walkersTurn s → SkipsStage2 s →
    decodeWord s.vars.level
      (orderDescriptor s.vars.params.reversedescriptors (memRead s (descriptorAddress s.vars))) = .ok i →
    step s = exec i { s with
      inputs := s.inputs.tail
      tick := s.tick + 1
      vars := { s.vars with
        addrselectbottom := s.vars.bottom
        index := tableIndex s.vars.params.inputaddr s.vars.addrselecttop s.vars.bottom
        descaddr := { memattrs := s.vars.descaddr.memattrs, paddress := descriptorAddress s.vars }
        descaddr2 := { memattrs := s.vars.descaddr.memattrs, paddress := descriptorAddress s.vars
                       vaddress := s.call.vaddress, acctype := .ptw }
        desc := orderDescriptor s.vars.params.reversedescriptors (memRead s (descriptorAddress s.vars))
        reads := s.vars.reads + 1 } }) ∧
  ∀ (s : State) (p : FullAddress) (w : BitVec 64), MemoryHolds s p w → memRead s p = w

/-- R112 to R116: where two stages are in use, the same with the read at the address, and with the attributes, that
stage 2 answers for the descriptor address, whatever it answers without fault. That its answers are taken from a list,
and are free values where the list is empty, is the model's choice (log entry 8). -/
def Obligations.MoveRunsTheDescriptorBehindStage2 : Prop :=
  ∀ (s : State) (d : AddressDescriptor) (i : Instr),
    s.phase = .fetching → walkersTurn s → ¬ SkipsStage2 s →
    d = stage2Answer (s.withVars (addressVars s.vars)) → d.fault = .noFault →
    decodeWord s.vars.level
      (orderDescriptor s.vars.params.reversedescriptors (memRead s d.paddress)) = .ok i →
    step s = exec i { s with
      inputs := s.inputs.tail
      stage2 := s.stage2.tail
      tick := s.tick + 1
      vars := { s.vars with
        addrselectbottom := s.vars.bottom
        index := tableIndex s.vars.params.inputaddr s.vars.addrselecttop s.vars.bottom
        descaddr := { memattrs := s.vars.descaddr.memattrs, paddress := descriptorAddress s.vars }
        descaddr2 := { memattrs := d.memattrs, paddress := d.paddress
                       vaddress := s.call.vaddress, acctype := .ptw }
        desc := orderDescriptor s.vars.params.reversedescriptors (memRead s d.paddress)
        reads := s.vars.reads + 1 } }

/-- R154: a fault that stage 2 of the descriptor address returns is the result, unchanged, and no descriptor is
read. -/
def Obligations.Stage2FaultIsReturnedUnchanged : Prop :=
  ∀ (s : State), s.phase = .fetching → walkersTurn s → ¬ SkipsStage2 s →
    (stage2Answer (s.withVars (addressVars s.vars))).fault ≠ .noFault →
    ∃ t, step s = .next t ∧
      Returned (.fault (stage2Answer (s.withVars (addressVars s.vars))).fault) t ∧
      t.vars.reads = s.vars.reads ∧ t.config = s.config ∧ t.regs = s.regs ∧
      (∀ (ns : Bit) (a : Nat), t.mem.byte ns a = s.mem.byte ns a)

/-! ## Memory and other agents -/

/-- R43, R45, R48: a 64-bit store is read back byte by byte, the lowest address bits 7:0, and leaves every other
byte of both address spaces. The byte order is D3's, the store's shape and the two separate spaces are the model's
choice (log entries 4, 10 and 34). -/
def Obligations.StoredValueIsReadBackByteByByte : Prop :=
  ∀ (m : Memory) (w : SlotValue) (ns : Bit) (a : Nat),
    (m.store64 w).byte ns a =
      if ns = w.ns ∧ slotAddress w.slot ≤ a ∧ a < slotAddress w.slot + 8 then
        some (byteOf w.value (a - slotAddress w.slot))
      else m.byte ns a

/-- R53 (D12): an aligned descriptor read answers memory's present value or a value that the location held
earlier (log entry 11); where no write has replaced a value since launch (in particular where no TLB holds anything,
the premise of R174), any read answers the present value. -/
def Obligations.ReadAnswersAValueTheLocationHeld : Prop :=
  ∀ (s : State) (p : FullAddress),
    (p.physicaladdress.toNat % 8 = 0 →
      memRead s p = s.mem.answer64 p.ns s.tick p.physicaladdress.toNat ∨
      ∃ e ∈ s.superseded, e.ns = p.ns ∧ slotAddress e.slot = p.physicaladdress.toNat ∧ memRead s p = e.value) ∧
    (s.superseded = [] ∨ NoTLBHoldsAnything s → memRead s p = s.mem.answer64 p.ns s.tick p.physicaladdress.toNat)

/-- R175: a read that races with one aligned write sees the value before or the value after, never a mixture.
That the read is atomic is presumed (D10, log entry 10). -/
def Obligations.RacingReadSeesOldOrNew : Prop :=
  ∀ (s : State) (w : SlotValue) (p : FullAddress), p.ns = w.ns →
    p.physicaladdress.toNat = slotAddress w.slot → earlierValues s p.ns p.physicaladdress.toNat = [] →
    memRead (externalWrite w s) p = w.value ∨
    memRead (externalWrite w s) p = memRead s p

/-- R46, R49, R175: the walk never writes memory: a byte changes only where another agent's write, at the head of
`inputs`, stores; and a step with a write at the head performs it: its eight bytes hold the value, every other byte,
the walk, the registers and the configuration are as before, and the old value is kept for racing reads. That byte k of
the eight is bits 8k+7:8k of the value is D3's (R45, log entry 4), and that the other address space is left as it is is
the model's choice (R42, log entry 34); the shape of the write is the model's too (log entries 10 and 11). -/
def Obligations.OnlyOtherAgentsWriteMemory : Prop :=
  (∀ (s t : State) (ns : Bit) (a : Nat), step s = .next t → t.mem.byte ns a ≠ s.mem.byte ns a →
    ∃ w rest, s.inputs = .memoryWrite w :: rest ∧ ns = w.ns ∧ slotAddress w.slot ≤ a ∧
      a < slotAddress w.slot + 8 ∧ t.mem.byte ns a = some (byteOf w.value (a - slotAddress w.slot))) ∧
  ∀ (s : State) (w : SlotValue) (rest : List Input), s.inputs = .memoryWrite w :: rest →
    ∃ t, step s = .next t ∧ t = externalWrite w { s with inputs := rest } ∧
      (∀ (ns : Bit) (a : Nat), t.mem.byte ns a =
        if ns = w.ns ∧ slotAddress w.slot ≤ a ∧ a < slotAddress w.slot + 8 then
          some (byteOf w.value (a - slotAddress w.slot))
        else s.mem.byte ns a) ∧
      t.superseded = { ns := w.ns, slot := w.slot
                       value := s.mem.answer64 w.ns s.tick (slotAddress w.slot) } :: s.superseded ∧
      t.vars = s.vars ∧ t.phase = s.phase ∧ t.result = s.result ∧ t.call = s.call ∧ t.regs = s.regs ∧
      t.earlierRegisters = s.earlierRegisters ∧ t.madeWalks = s.madeWalks ∧ t.config = s.config ∧ t.stage2 = s.stage2 ∧ t.inputs = rest

/-- R4, R27: no step changes the configuration, and registers change only when the processor changes them. -/
def Obligations.WalkNeverWritesRegisters : Prop :=
  ∀ (s t : State), step s = .next t →
    t.config = s.config ∧ (t.regs = s.regs ∨ ∃ rest, s.inputs = .registers t.regs :: rest)

/-- R27: registers that change during a walk do not touch it: it keeps what it sampled (an inference from R27, log
entry 24). The old values are kept for stale translations (R174, log entry 12). -/
def Obligations.RegisterChangeLeavesTheWalk : Prop :=
  ∀ (s : State) (r : Registers) (rest : List Input), s.inputs = .registers r :: rest →
    step s = .next { s with regs := r, earlierRegisters := s.regs :: s.earlierRegisters, inputs := rest }

/-! ## The entry of a walk -/

/-- R82, R157: a call that fails an entry assertion is refused, not faulted. That a translation is refused where the
assertion fails with the registers of now, even if registers held earlier meet it, is the model's choice (log entry
12). -/
def Obligations.FailedAssertionIsRefused : Prop :=
  ∀ (s : State) (c : Call) (rest : List Input), s.phase = .idle → Asks s c rest → ¬ AssertionsHold s c →
    step s = .refused .entryAssertion

/-- R4, R90 (D2, D16, D17): where a call that passes the assertions is refused, by name and never as a fault of the
walk: on a machine without physical address bits (log entry 27), for an answer of `AddrTop` out of range (log entry
7), where the derivation is lost (log entry 13), and for a parameter record that is not well formed (log entry 26).
That the regime is EL1&0 is read from `S1TranslationRegime()` by the model's choice (log entry 14), and that the
registers of now decide for a translation too, whatever registers held earlier would give it, is the model's choice
(log entry 12). -/
def Obligations.LostDerivationIsRefused : Prop :=
  ∀ (s : State) (c : Call) (rest : List Input), s.phase = .idle → AssertionsHold s c →
    (Asks s c rest → s.config.paMax = 0 → step s = .refused .paMaxTooSmall) ∧
    (Asks s c rest → 1 ≤ s.config.paMax → (c.top < 48 ∨ 63 < c.top) → step s = .refused .addrTopOutOfRange) ∧
    (CallAccepted s c →
      (∀ p, (s.inputs = .callWith c p :: rest ∨ s.inputs = .translate c (some p) :: rest) → p.wellFormed = false →
        step s = .refused .illFormedParameters) ∧
      ((s.inputs = .call c :: rest ∨ s.inputs = .translate c none :: rest) →
        (c.secondstage = true → step s = .refused .lostStage2Derivation) ∧
        (c.secondstage = false → s.regs.s1Regime ≠ .el1 → step s = .refused .lostRegimeDerivation) ∧
        (c.secondstage = false → s.regs.s1Regime = .el1 → c.vaddress.getLsbD c.top = true →
          step s = .refused .lostUpperHalfDerivation) ∧
        (c.secondstage = false → s.regs.s1Regime = .el1 → c.vaddress.getLsbD c.top = false →
          (admittedParams s.config s.regs c).wellFormed = false → step s = .refused .illFormedParameters)))

/-- R90 to R102: the admitted call with the grain table of D1 is never refused: it is the call that supplies the
derived record. The grain table is D1's, the reading of the regime and what makes a record well formed are the model's
(log entries 3, 14 and 26). -/
def Obligations.AdmittedCallUsesTheDerivedParameters : Prop :=
  ∀ (s : State) (c : Call) (rest : List Input), AdmittedCall s c → s.config.grain = GrainTable.d1 →
    s.inputs = .call c :: rest →
    (admittedParams s.config s.regs c).wellFormed = true ∧
    step s = step { s with inputs := .callWith c (admittedParams s.config s.regs c) :: rest } ∧
    ∃ t, step s = .next t

/-- R102: the parameter record of the admitted walk. Two rows of the grain table are presumed (D1, log entry 3), and
that '11' is the small grain is inferred (D15, log entry 25). -/
def Obligations.DerivedParametersAreTheTable : Prop :=
  ∀ (cfg : Config) (r : Registers) (c : Call), cfg.grain = GrainTable.d1 →
    let p := admittedParams cfg r c
    p.inputaddr = c.vaddress ∧
    (p.largegrain = true ↔ r.tcrEl1.tg0 = 0b01#2) ∧ (p.midgrain = true ↔ r.tcrEl1.tg0 = 0b10#2) ∧
    (p.disabled = true ↔ r.tcrEl1.epd0 = 1#1) ∧ p.baseregister = r.ttbr0El1 ∧
    p.memattrs = .walkAttr r.tcrEl1.sh0 r.tcrEl1.orgn0 r.tcrEl1.irgn0 ∧ p.ps = r.tcrEl1.ips ∧
    (p.reversedescriptors = true ↔ r.sctlrEl1Ee = 1#1) ∧ p.lookupsecure = r.secure ∧ p.singlepriv = false ∧
    p.level = startLevel p.inputsize p.grainsize p.stride ∧
    (r.tcrEl1.tg0 = 0b01#2 → p.grainsize = 16 ∧ p.firstblocklevel = 2 ∧ p.stride = 13) ∧
    (r.tcrEl1.tg0 = 0b10#2 → p.grainsize = 14 ∧ p.firstblocklevel = 2 ∧ p.stride = 11) ∧
    (r.tcrEl1.tg0 = 0b00#2 ∨ r.tcrEl1.tg0 = 0b11#2 →
      p.grainsize = 12 ∧ p.firstblocklevel = 1 ∧ p.stride = 9)

/-- R92: the input size is 64 - T0SZ; out of the range 25 to 48 it is forced to the nearest legal value or keeps
its illegal value, as drawn. -/
def Obligations.InputSizeIsForcedOrKept : Prop :=
  ∀ (cfg : Config) (r : Registers) (c : Call),
    let n : Int := 64 - (r.tcrEl1.t0sz : Int)
    let p := admittedParams cfg r c
    (25 ≤ n → n ≤ 48 → p.inputsize = n) ∧ (c.draw = .fault → p.inputsize = n) ∧
    (48 < n → c.draw = .force → p.inputsize = 48) ∧ (n < 25 → c.draw = .force → p.inputsize = 25)

/-- R93: `basefound` is TRUE iff the input size is legal and every address bit from `top` down to `inputsize` is
zero. -/
def Obligations.BaseFoundIsTheRangeTest : Prop :=
  ∀ (cfg : Config) (r : Registers) (c : Call),
    let p := admittedParams cfg r c
    p.basefound = true ↔
      25 ≤ p.inputsize ∧ p.inputsize ≤ 48 ∧
        ∀ k, p.inputsize.toNat ≤ k → k ≤ c.top → c.vaddress.getLsbD k = false

/-- R96: the start level is the one from which the strides down to level 3 just consume the input address; R100:
the first table has between 2 and 2^stride entries and 4 <= baselowerbound <= grainsize. For the grains of R95. -/
def Obligations.StartLevelConsumesTheInputAddress : Prop :=
  ∀ (p : WalkParams), (p.grainsize = 12 ∨ p.grainsize = 14 ∨ p.grainsize = 16) → p.stride = p.grainsize - 3 →
    25 ≤ p.inputsize → p.inputsize ≤ 48 → p.level = startLevel p.inputsize p.grainsize p.stride →
    0 ≤ p.level ∧ p.level ≤ 3 ∧
    1 ≤ p.inputsize - ((3 - p.level) * p.stride + p.grainsize) ∧
    p.inputsize - ((3 - p.level) * p.stride + p.grainsize) ≤ p.stride ∧
    4 ≤ baseLowerBound p ∧ baseLowerBound p ≤ p.grainsize

/-- R97: base not found or walk disabled gives a Translation fault at level 0, with no memory read. -/
def Obligations.BaseNotFoundOrDisabledFaults : Prop :=
  ∀ (s : State) (c : Call) (p : WalkParams) (rest : List Input), CallAccepted s c → p.wellFormed = true →
    s.inputs = .callWith c p :: rest → (p.basefound = false ∨ p.disabled = true) →
    ∃ t, step s = .next t ∧ Returned (.fault (.translation (callFaultArgs c 0))) t ∧ t.vars.reads = 0 ∧
      t.inputs = rest ∧ t.config = s.config ∧ t.regs = s.regs ∧ t.mem = s.mem

/-- R99: a base register with a one bit in 47:outputsize gives an Address size fault at level 0, with no memory
read. -/
def Obligations.BaseRegisterTooBigFaults : Prop :=
  ∀ (s : State) (c : Call) (p : WalkParams) (rest : List Input), CallAccepted s c → p.wellFormed = true →
    s.inputs = .callWith c p :: rest → p.basefound = true → p.disabled = false →
    ¬ FitsOutputSize (outputSize p.ps s.config.paMax) p.baseregister →
    ∃ t, step s = .next t ∧ Returned (.fault (.addressSize (callFaultArgs c 0))) t ∧ t.vars.reads = 0 ∧
      t.inputs = rest ∧ t.config = s.config ∧ t.regs = s.regs ∧ t.mem = s.mem

/-- R98: the output address size, the encoded size but never more than `PAMax()`. -/
def Obligations.OutputSizeIsCappedByPAMax : Prop :=
  ∀ (paMax : Nat),
    outputSize 0b000#3 paMax = min paMax 32 ∧ outputSize 0b001#3 paMax = min paMax 36 ∧
    outputSize 0b010#3 paMax = min paMax 40 ∧ outputSize 0b011#3 paMax = min paMax 42 ∧
    outputSize 0b100#3 paMax = min paMax 44 ∧ outputSize 0b101#3 paMax = min paMax 48 ∧
    outputSize 0b110#3 paMax = min paMax 48 ∧ outputSize 0b111#3 paMax = min paMax 48

/-- R98, R100, R101: the walk begins with the first table's address, the Secure space iff `lookupsecure`, no
inherited restriction and the top index bit, with no result yet (R83). -/
def Obligations.WalkBeginsAtTheFirstTable : Prop :=
  ∀ (s : State) (c : Call) (p : WalkParams) (rest : List Input), CallAccepted s c → p.wellFormed = true →
    s.inputs = .callWith c p :: rest → p.basefound = true → p.disabled = false →
    FitsOutputSize (outputSize p.ps s.config.paMax) p.baseregister →
    ∃ t, step s = .next t ∧ t.phase = .fetching ∧ t.result = none ∧ t.call = c ∧ t.inputs = rest ∧
      t.config = s.config ∧ t.regs = s.regs ∧ t.mem = s.mem ∧
      t.vars.params = p ∧ t.vars.descaddr.memattrs = p.memattrs ∧ t.vars.outputsize = outputSize p.ps s.config.paMax ∧
      (t.vars.level : Int) = p.level ∧
      (t.vars.baselowerbound : Int) = 3 + p.inputsize - ((3 - p.level) * p.stride + p.grainsize) ∧
      (∀ k, k < 48 → t.vars.baseaddress.getLsbD k =
        (decide (t.vars.baselowerbound ≤ k) && p.baseregister.getLsbD k)) ∧
      t.vars.nsTable = (if p.lookupsecure then 0#1 else 1#1) ∧ t.vars.apTable = 0#2 ∧ t.vars.xnTable = 0#1 ∧
      t.vars.pxnTable = 0#1 ∧ (t.vars.addrselecttop : Int) = p.inputsize - 1 ∧ t.vars.reads = 0

/-- R25, R27: the security state and the exception level are sampled when the call enters, whether or not the walk
goes on (that they are sampled in that step is an inference from R27, log entry 24), and the walk is recorded. R174: a
translation, with or without a parameter record, answers a next state wherever the call of now does, and it is the one
that the call answers with the registers of now, of an earlier time or of a walk made since launch: where the
translation has no record and the regime of that time is EL1&0, with the record derived from those registers or with
that of a walk made then for the same input, and else with some record, since their derivation is lost or the record was
supplied. It is exactly the call's where no TLB holds anything, and where nothing that one holds is stale. This is the
model's form of R174 (log entries 12 and 14). -/
def Obligations.EntrySamplesTheProcessorState : Prop :=
  (∀ (s t : State) (c : Call) (p : WalkParams) (rest : List Input), s.phase = .idle →
    (s.inputs = .call c :: rest ∨ s.inputs = .callWith c p :: rest) → step s = .next t →
    t.vars.secure = s.regs.secure ∧ t.vars.el = s.regs.pstateEl ∧ t.call = c ∧ t.inputs = rest ∧
      t.madeWalks = { regs := s.regs, call := c, params := t.vars.params } :: s.madeWalks) ∧
  ∀ (s u : State) (c : Call) (supplied : Option WalkParams) (rest : List Input), s.phase = .idle →
    s.inputs = .translate c supplied :: rest →
    step { s with inputs := callInput c supplied :: rest } = .next u →
    ∃ t, step s = .next t ∧ (NoTLBHoldsAnything s ∨ NothingStale s → t = u) ∧
      ∃ r sup v, (r ∈ s.regs :: s.earlierRegisters ∨ ∃ w ∈ s.madeWalks, w.regs = r) ∧
        step { s with regs := r, inputs := callInput c sup :: rest } = .next v ∧
        t = { v with regs := s.regs, tick := t.tick, madeWalks := u.madeWalks } ∧
        (supplied = none → r.s1Regime = .el1 →
          sup = none ∨ ∃ w ∈ s.madeWalks, sameInput w.call c = true ∧ w.regs = r ∧ sup = some w.params)

/-- R34: the function keeps nothing from one call to the next: two idle machines that differ only in what an
earlier walk left in the function's own state take the same step when a call or a translation arrives, and a call also
where they differ in what a TLB may hold (that the walks made are recorded for translations is the model's form of R174,
log entry 12). -/
def Obligations.WalkKeepsNothingFromTheLastCall : Prop :=
  (∀ (s : State) (c0 : Call) (v0 : Vars) (r0 : Option WalkResult) (n : Nat) (c : Call) (rest : List Input),
    s.phase = .idle → Asks s c rest →
    Sys2Proof.core.run (n + 1) { s with call := c0, vars := v0, result := r0 } = Sys2Proof.core.run (n + 1) s) ∧
  ∀ (s t : State) (c : Call) (supplied : Option WalkParams) (rest : List Input) (earlier : List Registers)
    (made : List MadeWalk), s.phase = .idle → s.inputs = callInput c supplied :: rest → step s = .next t →
    step { s with earlierRegisters := earlier, madeWalks := made } =
      .next { t with
        earlierRegisters := earlier
        madeWalks := { regs := s.regs, call := c, params := t.vars.params } :: made }

/-! ## The machine as a whole -/

/-- At reset no walk is in progress, none has returned, memory lists nothing, the invariant holds, and so does the
launch premise of R174 and D13. That a machine starts so is the model's choice (log entries 9, 12 and 18). -/
def Obligations.ResetIsSound : Prop :=
  State.reset.Inv ∧ State.reset.phase = .idle ∧ State.reset.result = none ∧
    (∀ (ns : Bit) (a : Nat), State.reset.mem.byte ns a = none) ∧ TLBsEmptyAndTablesStatic State.reset

/-- Every step keeps the invariant: memory's canonical form, and at the head of the loop the alignment (R47), the
level range (R121), the select range (R111), the output size (R42) and the security of the lookup (R119). And from the
launch premise of R174 and D13 on, without a change of tables or registers, no TLB comes to hold anything stale. -/
def Obligations.EveryStepKeepsTheInvariant : Prop :=
  ∀ (s t : State), step s = .next t →
    (s.Inv → t.Inv) ∧ (TLBsEmptyAndTablesStatic s ∨ NothingStale s → NothingStale t)

/-- R121: a walk left to itself returns within four moves, one for each level from its own down to 3. That it returns
rests on the premise `WalkReadsSucceed` of D18, which the model takes for granted (log entry 22); after an early return
the moves left over are steps of the idle walker (the model's choice, log entry 16). -/
def Obligations.WalkReturnsWithinFourMoves : Prop :=
  ∀ (s : State), s.Inv → s.phase = .fetching → s.inputs = [] →
    ∃ t r, Sys2Proof.core.run (4 - s.vars.level) s = .next t ∧ Returned r t ∧ t.vars.reads ≤ 4

/-- R121: a walk in progress has made at most three reads, and no step takes it above four. -/
def Obligations.WalkMakesAtMostFourReads : Prop :=
  ∀ (s t : State), s.Inv → s.phase = .fetching → step s = .next t →
    s.vars.reads ≤ 3 ∧ t.vars.reads ≤ 4 ∧ (t.phase = .fetching → t.vars.reads ≤ 3)

/-- From a sound state no step stops with a fault: the level never passes 3 (R121). -/
def Obligations.SoundStateNeverStops : Prop :=
  ∀ (s : State) (r : Fault), s.Inv → step s ≠ .fault r

/-- Only a call or a translation that arrives at an idle walker is ever refused (R157). -/
def Obligations.OnlyACallIsRefused : Prop :=
  ∀ (s : State) (r : Refusal), step s = .refused r → s.phase = .idle ∧ ∃ c rest, Asks s c rest

/-- R119, R140, R163: a walk that looks up Non-secure memory stays there, in one stage or two: `ns_table` stays '1' and
a successful result is Non-secure. Where stage 2 is skipped each of its reads is in the Non-secure space; where it is
not, the read is where stage 2 answers, of which the spec says nothing (R112, D9). -/
def Obligations.NonSecureWalkStaysNonSecure : Prop :=
  ∀ (s t : State), s.Inv → s.phase = .fetching → s.vars.params.lookupsecure = false →
    walkersTurn s → step s = .next t →
    (SkipsStage2 s → t.vars.descaddr2.paddress.ns = 1#1) ∧ t.vars.nsTable = 1#1 ∧
      ∀ r, t.result = some (.ok r) → r.paddress.ns = 1#1

/-- R42, R119, R163: the move of a Non-secure walk with stage 2 skipped does not depend on Secure memory, which it
leaves as it is. That the two address spaces do not alias is the model's choice (log entry 34). -/
def Obligations.NonSecureWalkIgnoresSecureMemory : Prop :=
  ∀ (s t : State) (cells : List Host.Cell), s.Inv → s.phase = .fetching →
    s.vars.params.lookupsecure = false → SkipsStage2 s → walkersTurn s → step s = .next t →
    step { s with mem := { s.mem with secure := cells } } =
      .next { t with mem := { t.mem with secure := cells } }

/-- A call that arrives while a walk is in progress waits for it (the model's choice, log entry 30). -/
def Obligations.CallWaitsForTheWalkInProgress : Prop :=
  ∀ (s : State) (c : Call) (rest : List Input), s.phase = .fetching → Asks s c rest →
    step s = step { s with inputs := .walker :: s.inputs }

/-- An idle walker does nothing between calls (R34; that the step is then a next state is the model's choice, log
entry 16). -/
def Obligations.IdleWalkerDoesNothing : Prop :=
  ∀ (s : State), s.phase = .idle → walkersTurn s → step s = .next { s with inputs := s.inputs.tail }

/-- The placement of one descriptor (the model's choice, log entry 17): the next step runs the instruction that
the decoder reads from the word. -/
def Obligations.PlacedDescriptorRunsNext : Prop :=
  ∀ (s : State) (nbits w : Nat) (i : Instr), decodeTableWord nbits w = some i →
    ∃ t, step (s.withFetchWord nbits w) = exec i t ∧ t.phase = .fetching ∧ t.vars.level = tableWordLevel
end

