-- ==== Sys2Proof/Laws/Memory.lean ====
section
/-! SUPPORT. Memory: every operation keeps the canonical form, and what a stored cell reads as. -/

namespace Sys2Proof.Machine

theorem sortedFrom_weaken {lo lo' : Nat} (h : lo' ≤ lo) (cells : List Host.Cell)
    (hs : sortedFrom lo cells = true) : sortedFrom lo' cells = true := by
  cases cells with
  | nil => rfl
  | cons c rest =>
    simp only [sortedFrom, Bool.and_eq_true, decide_eq_true_eq] at hs ⊢
    exact ⟨⟨by omega, hs.1.2⟩, hs.2⟩

/-- A store below 2^48 keeps the addresses strictly rising. -/
theorem storeCell_sorted (cells : List Host.Cell) (lo a : Nat) (v : Byte) (hlo : lo ≤ a) (ha : a < 2 ^ 48)
    (hs : sortedFrom lo cells = true) : sortedFrom lo (storeCell cells a v) = true := by
  induction cells generalizing lo with
  | nil => simp only [storeCell, sortedFrom]; simp; omega
  | cons c rest ih =>
    simp only [sortedFrom, Bool.and_eq_true, decide_eq_true_eq] at hs
    obtain ⟨⟨h1, h2⟩, h3⟩ := hs
    unfold storeCell
    split
    · simp only [sortedFrom, Bool.and_eq_true, decide_eq_true_eq]
      exact ⟨⟨hlo, ha⟩, ⟨by omega, h2⟩, h3⟩
    · split
      · rename_i e
        simp only [sortedFrom, Bool.and_eq_true, decide_eq_true_eq]
        exact ⟨⟨hlo, ha⟩, by rw [e]; exact h3⟩
      · simp only [sortedFrom, Bool.and_eq_true, decide_eq_true_eq]
        exact ⟨⟨h1, h2⟩, ih _ (by omega) h3⟩

/-- What the list reads after a store. -/
theorem cellAt_storeCell (cells : List Host.Cell) (a b : Nat) (v : Byte) :
    cellAt (storeCell cells a v) b = if b = a then some v else cellAt cells b := by
  induction cells with
  | nil => simp only [storeCell, cellAt, eq_comm]
  | cons c rest ih =>
    unfold storeCell
    split
    · simp only [cellAt, eq_comm]
    · split
      · rename_i e
        by_cases hb : b = a
        · simp [cellAt, hb]
        · simp [cellAt, hb, Ne.symm hb, show ¬ c.1 = b by omega]
      · simp only [cellAt, ih]
        by_cases hb : b = a
        · simp [hb, show ¬ c.1 = a by omega]
        · simp [hb]

theorem storeByte_wf (m : Memory) (ns : Bit) (a : Nat) (v : Byte) (h : m.wf = true) :
    (m.storeByte ns a v).wf = true := by
  simp only [Memory.wf, Bool.and_eq_true] at h
  unfold Memory.storeByte
  split
  · simp [Memory.wf, h]
  · split
    · simp only [Memory.wf, Bool.and_eq_true]
      exact ⟨storeCell_sorted _ _ _ _ (Nat.zero_le _) (by omega) h.1, h.2⟩
    · simp only [Memory.wf, Bool.and_eq_true]
      exact ⟨h.1, storeCell_sorted _ _ _ _ (Nat.zero_le _) (by omega) h.2⟩

theorem storeBytes_wf (bytes : List Byte) (m : Memory) (ns : Bit) (a : Nat) (h : m.wf = true) :
    (m.storeBytes ns a bytes).wf = true := by
  induction bytes generalizing m a with
  | nil => exact h
  | cons b rest ih => exact ih _ _ (storeByte_wf m ns a b h)

/-- The one store of the machine keeps the canonical form. -/
theorem store64_wf (m : Memory) (w : SlotValue) (h : m.wf = true) : (m.store64 w).wf = true :=
  storeBytes_wf _ _ _ _ h

theorem empty_wf : Memory.empty.wf = true := rfl

/-- What one byte reads as after a byte is stored within the address space. -/
theorem byte_storeByte (m : Memory) (ns ns' : Bit) (a b : Nat) (v : Byte) (ha : a < 2 ^ 48) :
    (m.storeByte ns a v).byte ns' b = if ns' = ns ∧ b = a then some v else m.byte ns' b := by
  have two : ∀ x : Bit, x = 0#1 ∨ x = 1#1 := by decide
  have h : ¬ 281474976710656 ≤ a := by omega
  rcases two ns with rfl | rfl <;> rcases two ns' with rfl | rfl <;>
    simp [Memory.storeByte, Memory.byte, Memory.space, h, cellAt_storeCell]

/-- A location lies within the 48-bit address space. -/
theorem slotAddress_lt (slot : Slot) : slotAddress slot + 8 ≤ 2 ^ 48 := by
  have := slot.isLt
  unfold slotAddress
  omega

end Sys2Proof.Machine
end

