-- ==== Sys2Proof/Laws/Operands.lean ====
section
/-! SUPPORT. The bits of the operand forms (spec/00_scope.md R6, spec/30_encoding.md R66). -/

namespace Sys2Proof.Machine

theorem getLsbD_slice {n : Nat} (v : BitVec n) (hi lo k : Nat) :
    (slice v hi lo).getLsbD k = (decide (k < hi + 1 - lo) && v.getLsbD (lo + k)) := by
  simp [slice, BitVec.getLsbD_extractLsb']

theorem bit_eq_one_iff {n : Nat} (v : BitVec n) (i : Nat) : bit v i = 1#1 ↔ v.getLsbD i = true := by
  constructor
  · intro h
    have := congrArg (fun b : Bit => b.getLsbD 0) h
    simpa [bit, BitVec.getLsbD_extractLsb'] using this
  · intro h
    apply BitVec.eq_of_getLsbD_eq
    intro j hj
    obtain rfl : j = 0 := by omega
    simp [bit, h]

theorem bit_eq_zero_iff {n : Nat} (v : BitVec n) (i : Nat) : bit v i = 0#1 ↔ v.getLsbD i = false := by
  constructor
  · intro h
    have := congrArg (fun b : Bit => b.getLsbD 0) h
    simpa [bit, BitVec.getLsbD_extractLsb'] using this
  · intro h
    apply BitVec.eq_of_getLsbD_eq
    intro j hj
    obtain rfl : j = 0 := by omega
    simp [bit, h]

theorem isZero_iff {n : Nat} (v : BitVec n) : isZero v = true ↔ ∀ k, k < n → v.getLsbD k = false := by
  constructor
  · intro h k _
    have : v = 0#n := by simpa [isZero] using h
    simp [this]
  · intro h
    have : v = 0#n := BitVec.eq_of_getLsbD_eq fun i hi => by simp [h i hi]
    simp [isZero, this]

/-- A field of a concatenation that lies in its high part. -/
theorem extract_append_high {n m N : Nat} (x : BitVec n) (y : BitVec m) (h : n + m = N) (lo len : Nat)
    (hlo : m ≤ lo) : (BitVec.cast h (x ++ y)).extractLsb' lo len = x.extractLsb' (lo - m) len := by
  apply BitVec.eq_of_getLsbD_eq
  intro i hi
  simp only [BitVec.getLsbD_extractLsb', BitVec.getLsbD_cast, BitVec.getLsbD_append, hi, decide_true,
    Bool.true_and]
  rw [if_neg (by omega)]
  congr 1
  omega

/-- A field of a concatenation that lies in its low part. -/
theorem extract_append_low {n m N : Nat} (x : BitVec n) (y : BitVec m) (h : n + m = N) (lo len : Nat)
    (hlo : lo + len ≤ m) : (BitVec.cast h (x ++ y)).extractLsb' lo len = y.extractLsb' lo len := by
  apply BitVec.eq_of_getLsbD_eq
  intro i hi
  simp only [BitVec.getLsbD_extractLsb', BitVec.getLsbD_cast, BitVec.getLsbD_append, hi, decide_true,
    Bool.true_and]
  rw [if_pos (by omega)]

/-- The field that is the whole string. -/
theorem extract_whole {n : Nat} (x : BitVec n) : x.extractLsb' 0 n = x := by
  apply BitVec.eq_of_getLsbD_eq
  intro i hi
  simp [hi]

/-- Two neighbouring fields, put together. -/
theorem extract_join {n len1 len2 N : Nat} (w : BitVec n) (lo : Nat) (h : len2 + len1 = N) :
    BitVec.cast h (w.extractLsb' (lo + len1) len2 ++ w.extractLsb' lo len1) = w.extractLsb' lo N := by
  apply BitVec.eq_of_getLsbD_eq
  intro i hi
  simp only [BitVec.getLsbD_extractLsb', BitVec.getLsbD_cast, BitVec.getLsbD_append, hi, decide_true,
    Bool.true_and]
  split
  · simp [*]
  · simp [show i - len1 < len2 by omega, show lo + len1 + (i - len1) = lo + i by omega]

/-- The check of R99, R117 and R135 passes exactly when the value fits. -/
theorem exceedsOutputSize_eq_false_iff (os : Nat) (v : BitVec 64) :
    exceedsOutputSize os v = false ↔ FitsOutputSize os v := by
  unfold exceedsOutputSize FitsOutputSize
  by_cases h : os = 48
  · simp [h]
  · have hz := isZero_iff (slice v 47 os)
    have key : isZero (slice v 47 os) = true ↔ ∀ k, os ≤ k → k < 48 → v.getLsbD k = false := by
      rw [hz]
      constructor
      · intro hk k h1 h2
        have := hk (k - os) (by omega)
        rw [getLsbD_slice] at this
        have e : os + (k - os) = k := by omega
        rw [e] at this
        simpa [show k - os < 48 - os by omega] using this
      · intro hk k h1
        rw [getLsbD_slice]
        simp [hk (os + k) (by omega) (by omega)]
    simp [h, ← key]

/-- The bits of a table address (R100, R118). -/
theorem getLsbD_tableAddress (v : BitVec 64) (lo k : Nat) (hk : k < 48) :
    (tableAddress v lo).getLsbD k = (decide (lo ≤ k) && v.getLsbD k) := by
  unfold tableAddress
  rw [BitVec.getLsbD_setWidth, BitVec.getLsbD_append]
  by_cases h : k < lo
  · simp [h, hk, show ¬ lo ≤ k by omega]
  · rw [getLsbD_slice]
    simp [h, hk, show lo ≤ k by omega, show k - lo < 48 - lo by omega, show lo + (k - lo) = k by omega]

/-- The bits of a table index (R111). -/
theorem getLsbD_tableIndex (v : BitVec 64) (top bottom k : Nat) (hk : k < 48) :
    (tableIndex v top bottom).getLsbD k =
      (decide (3 ≤ k) && decide (bottom + (k - 3) ≤ top) && v.getLsbD (bottom + (k - 3))) := by
  unfold tableIndex
  rw [BitVec.getLsbD_setWidth, BitVec.getLsbD_append]
  by_cases h : k < 3
  · simp [h, hk, show ¬ 3 ≤ k by omega]
  · rw [getLsbD_slice]
    have e : (decide (k - 3 < top + 1 - bottom)) = decide (bottom + (k - 3) ≤ top) := by
      rw [decide_eq_decide]; omega
    simp [h, hk, e, show 3 ≤ k by omega]

/-- The bits of an output address (R137). -/
theorem getLsbD_joinOffset (desc inputaddr : BitVec 64) (b k : Nat) (hk : k < 48) :
    (joinOffset desc inputaddr b).getLsbD k = if k < b then inputaddr.getLsbD k else desc.getLsbD k := by
  unfold joinOffset
  rw [BitVec.getLsbD_setWidth, BitVec.getLsbD_append]
  by_cases h : k < b
  · simp [h, hk]
  · rw [getLsbD_slice]
    simp [h, hk, show k - b < 48 - b by omega, show b + (k - b) = k by omega]

end Sys2Proof.Machine
end

