-- ==== Sys2Proof/Laws/State.lean ====
section
/-! SUPPORT. What each named update of the state leaves in each field, true by rfl. -/

namespace Sys2Proof.Machine

@[simp] theorem withVars_config (s : State) (v : Vars) :
    (s.withVars v).config = s.config := rfl

@[simp] theorem withVars_regs (s : State) (v : Vars) :
    (s.withVars v).regs = s.regs := rfl

@[simp] theorem withVars_phase (s : State) (v : Vars) :
    (s.withVars v).phase = s.phase := rfl

@[simp] theorem withVars_call (s : State) (v : Vars) :
    (s.withVars v).call = s.call := rfl

@[simp] theorem withVars_vars (s : State) (v : Vars) :
    (s.withVars v).vars = v := rfl

@[simp] theorem withVars_result (s : State) (v : Vars) :
    (s.withVars v).result = s.result := rfl

@[simp] theorem withVars_mem (s : State) (v : Vars) :
    (s.withVars v).mem = s.mem := rfl

@[simp] theorem withVars_superseded (s : State) (v : Vars) :
    (s.withVars v).superseded = s.superseded := rfl

@[simp] theorem withVars_earlierRegisters (s : State) (v : Vars) :
    (s.withVars v).earlierRegisters = s.earlierRegisters := rfl

@[simp] theorem withVars_madeWalks (s : State) (v : Vars) :
    (s.withVars v).madeWalks = s.madeWalks := rfl

@[simp] theorem withVars_inputs (s : State) (v : Vars) :
    (s.withVars v).inputs = s.inputs := rfl

@[simp] theorem withVars_stage2 (s : State) (v : Vars) :
    (s.withVars v).stage2 = s.stage2 := rfl

@[simp] theorem withVars_tick (s : State) (v : Vars) :
    (s.withVars v).tick = s.tick := rfl

@[simp] theorem returnFault_config (f : FaultRecord) (s : State) :
    (returnFault f s).config = s.config := rfl

@[simp] theorem returnFault_regs (f : FaultRecord) (s : State) :
    (returnFault f s).regs = s.regs := rfl

@[simp] theorem returnFault_phase (f : FaultRecord) (s : State) :
    (returnFault f s).phase = .idle := rfl

@[simp] theorem returnFault_call (f : FaultRecord) (s : State) :
    (returnFault f s).call = s.call := rfl

@[simp] theorem returnFault_vars (f : FaultRecord) (s : State) :
    (returnFault f s).vars = s.vars := rfl

@[simp] theorem returnFault_result (f : FaultRecord) (s : State) :
    (returnFault f s).result = some (.fault f) := rfl

@[simp] theorem returnFault_mem (f : FaultRecord) (s : State) :
    (returnFault f s).mem = s.mem := rfl

@[simp] theorem returnFault_superseded (f : FaultRecord) (s : State) :
    (returnFault f s).superseded = s.superseded := rfl

@[simp] theorem returnFault_earlierRegisters (f : FaultRecord) (s : State) :
    (returnFault f s).earlierRegisters = s.earlierRegisters := rfl

@[simp] theorem returnFault_madeWalks (f : FaultRecord) (s : State) :
    (returnFault f s).madeWalks = s.madeWalks := rfl

@[simp] theorem returnFault_inputs (f : FaultRecord) (s : State) :
    (returnFault f s).inputs = s.inputs := rfl

@[simp] theorem returnFault_stage2 (f : FaultRecord) (s : State) :
    (returnFault f s).stage2 = s.stage2 := rfl

@[simp] theorem returnFault_tick (f : FaultRecord) (s : State) :
    (returnFault f s).tick = s.tick := rfl

@[simp] theorem returnTranslation_config (t : Translation) (s : State) :
    (returnTranslation t s).config = s.config := rfl

@[simp] theorem returnTranslation_regs (t : Translation) (s : State) :
    (returnTranslation t s).regs = s.regs := rfl

@[simp] theorem returnTranslation_phase (t : Translation) (s : State) :
    (returnTranslation t s).phase = .idle := rfl

@[simp] theorem returnTranslation_call (t : Translation) (s : State) :
    (returnTranslation t s).call = s.call := rfl

@[simp] theorem returnTranslation_vars (t : Translation) (s : State) :
    (returnTranslation t s).vars = s.vars := rfl

@[simp] theorem returnTranslation_result (t : Translation) (s : State) :
    (returnTranslation t s).result = some (.ok t) := rfl

@[simp] theorem returnTranslation_mem (t : Translation) (s : State) :
    (returnTranslation t s).mem = s.mem := rfl

@[simp] theorem returnTranslation_superseded (t : Translation) (s : State) :
    (returnTranslation t s).superseded = s.superseded := rfl

@[simp] theorem returnTranslation_earlierRegisters (t : Translation) (s : State) :
    (returnTranslation t s).earlierRegisters = s.earlierRegisters := rfl

@[simp] theorem returnTranslation_madeWalks (t : Translation) (s : State) :
    (returnTranslation t s).madeWalks = s.madeWalks := rfl

@[simp] theorem returnTranslation_inputs (t : Translation) (s : State) :
    (returnTranslation t s).inputs = s.inputs := rfl

@[simp] theorem returnTranslation_stage2 (t : Translation) (s : State) :
    (returnTranslation t s).stage2 = s.stage2 := rfl

@[simp] theorem returnTranslation_tick (t : Translation) (s : State) :
    (returnTranslation t s).tick = s.tick := rfl

@[simp] theorem raiseTranslationFault_config (s : State) :
    (raiseTranslationFault s).config = s.config := rfl

@[simp] theorem raiseTranslationFault_regs (s : State) :
    (raiseTranslationFault s).regs = s.regs := rfl

@[simp] theorem raiseTranslationFault_phase (s : State) :
    (raiseTranslationFault s).phase = .idle := rfl

@[simp] theorem raiseTranslationFault_call (s : State) :
    (raiseTranslationFault s).call = s.call := rfl

@[simp] theorem raiseTranslationFault_vars (s : State) :
    (raiseTranslationFault s).vars = s.vars := rfl

@[simp] theorem raiseTranslationFault_result (s : State) :
    (raiseTranslationFault s).result = some (.fault (.translation (faultArgs s))) := rfl

@[simp] theorem raiseTranslationFault_mem (s : State) :
    (raiseTranslationFault s).mem = s.mem := rfl

@[simp] theorem raiseTranslationFault_superseded (s : State) :
    (raiseTranslationFault s).superseded = s.superseded := rfl

@[simp] theorem raiseTranslationFault_earlierRegisters (s : State) :
    (raiseTranslationFault s).earlierRegisters = s.earlierRegisters := rfl

@[simp] theorem raiseTranslationFault_madeWalks (s : State) :
    (raiseTranslationFault s).madeWalks = s.madeWalks := rfl

@[simp] theorem raiseTranslationFault_inputs (s : State) :
    (raiseTranslationFault s).inputs = s.inputs := rfl

@[simp] theorem raiseTranslationFault_stage2 (s : State) :
    (raiseTranslationFault s).stage2 = s.stage2 := rfl

@[simp] theorem raiseTranslationFault_tick (s : State) :
    (raiseTranslationFault s).tick = s.tick := rfl

@[simp] theorem raiseAddressSizeFault_config (s : State) :
    (raiseAddressSizeFault s).config = s.config := rfl

@[simp] theorem raiseAddressSizeFault_regs (s : State) :
    (raiseAddressSizeFault s).regs = s.regs := rfl

@[simp] theorem raiseAddressSizeFault_phase (s : State) :
    (raiseAddressSizeFault s).phase = .idle := rfl

@[simp] theorem raiseAddressSizeFault_call (s : State) :
    (raiseAddressSizeFault s).call = s.call := rfl

@[simp] theorem raiseAddressSizeFault_vars (s : State) :
    (raiseAddressSizeFault s).vars = s.vars := rfl

@[simp] theorem raiseAddressSizeFault_result (s : State) :
    (raiseAddressSizeFault s).result = some (.fault (.addressSize (faultArgs s))) := rfl

@[simp] theorem raiseAddressSizeFault_mem (s : State) :
    (raiseAddressSizeFault s).mem = s.mem := rfl

@[simp] theorem raiseAddressSizeFault_superseded (s : State) :
    (raiseAddressSizeFault s).superseded = s.superseded := rfl

@[simp] theorem raiseAddressSizeFault_earlierRegisters (s : State) :
    (raiseAddressSizeFault s).earlierRegisters = s.earlierRegisters := rfl

@[simp] theorem raiseAddressSizeFault_madeWalks (s : State) :
    (raiseAddressSizeFault s).madeWalks = s.madeWalks := rfl

@[simp] theorem raiseAddressSizeFault_inputs (s : State) :
    (raiseAddressSizeFault s).inputs = s.inputs := rfl

@[simp] theorem raiseAddressSizeFault_stage2 (s : State) :
    (raiseAddressSizeFault s).stage2 = s.stage2 := rfl

@[simp] theorem raiseAddressSizeFault_tick (s : State) :
    (raiseAddressSizeFault s).tick = s.tick := rfl

@[simp] theorem raiseAccessFlagFault_config (s : State) :
    (raiseAccessFlagFault s).config = s.config := rfl

@[simp] theorem raiseAccessFlagFault_regs (s : State) :
    (raiseAccessFlagFault s).regs = s.regs := rfl

@[simp] theorem raiseAccessFlagFault_phase (s : State) :
    (raiseAccessFlagFault s).phase = .idle := rfl

@[simp] theorem raiseAccessFlagFault_call (s : State) :
    (raiseAccessFlagFault s).call = s.call := rfl

@[simp] theorem raiseAccessFlagFault_vars (s : State) :
    (raiseAccessFlagFault s).vars = s.vars := rfl

@[simp] theorem raiseAccessFlagFault_result (s : State) :
    (raiseAccessFlagFault s).result = some (.fault (.accessFlag (faultArgs s))) := rfl

@[simp] theorem raiseAccessFlagFault_mem (s : State) :
    (raiseAccessFlagFault s).mem = s.mem := rfl

@[simp] theorem raiseAccessFlagFault_superseded (s : State) :
    (raiseAccessFlagFault s).superseded = s.superseded := rfl

@[simp] theorem raiseAccessFlagFault_earlierRegisters (s : State) :
    (raiseAccessFlagFault s).earlierRegisters = s.earlierRegisters := rfl

@[simp] theorem raiseAccessFlagFault_madeWalks (s : State) :
    (raiseAccessFlagFault s).madeWalks = s.madeWalks := rfl

@[simp] theorem raiseAccessFlagFault_inputs (s : State) :
    (raiseAccessFlagFault s).inputs = s.inputs := rfl

@[simp] theorem raiseAccessFlagFault_stage2 (s : State) :
    (raiseAccessFlagFault s).stage2 = s.stage2 := rfl

@[simp] theorem raiseAccessFlagFault_tick (s : State) :
    (raiseAccessFlagFault s).tick = s.tick := rfl

@[simp] theorem beginWalk_config (c : Call) (v : Vars) (s : State) :
    (beginWalk c v s).config = s.config := rfl

@[simp] theorem beginWalk_regs (c : Call) (v : Vars) (s : State) :
    (beginWalk c v s).regs = s.regs := rfl

@[simp] theorem beginWalk_phase (c : Call) (v : Vars) (s : State) :
    (beginWalk c v s).phase = .fetching := rfl

@[simp] theorem beginWalk_call (c : Call) (v : Vars) (s : State) :
    (beginWalk c v s).call = c := rfl

@[simp] theorem beginWalk_vars (c : Call) (v : Vars) (s : State) :
    (beginWalk c v s).vars = v := rfl

@[simp] theorem beginWalk_result (c : Call) (v : Vars) (s : State) :
    (beginWalk c v s).result = none := rfl

@[simp] theorem beginWalk_mem (c : Call) (v : Vars) (s : State) :
    (beginWalk c v s).mem = s.mem := rfl

@[simp] theorem beginWalk_superseded (c : Call) (v : Vars) (s : State) :
    (beginWalk c v s).superseded = s.superseded := rfl

@[simp] theorem beginWalk_earlierRegisters (c : Call) (v : Vars) (s : State) :
    (beginWalk c v s).earlierRegisters = s.earlierRegisters := rfl

@[simp] theorem beginWalk_madeWalks (c : Call) (v : Vars) (s : State) :
    (beginWalk c v s).madeWalks = { regs := s.regs, call := c, params := v.params } :: s.madeWalks := rfl

@[simp] theorem beginWalk_inputs (c : Call) (v : Vars) (s : State) :
    (beginWalk c v s).inputs = s.inputs := rfl

@[simp] theorem beginWalk_stage2 (c : Call) (v : Vars) (s : State) :
    (beginWalk c v s).stage2 = s.stage2 := rfl

@[simp] theorem beginWalk_tick (c : Call) (v : Vars) (s : State) :
    (beginWalk c v s).tick = s.tick := rfl

@[simp] theorem externalWrite_config (w : SlotValue) (s : State) :
    (externalWrite w s).config = s.config := rfl

@[simp] theorem externalWrite_regs (w : SlotValue) (s : State) :
    (externalWrite w s).regs = s.regs := rfl

@[simp] theorem externalWrite_phase (w : SlotValue) (s : State) :
    (externalWrite w s).phase = s.phase := rfl

@[simp] theorem externalWrite_call (w : SlotValue) (s : State) :
    (externalWrite w s).call = s.call := rfl

@[simp] theorem externalWrite_vars (w : SlotValue) (s : State) :
    (externalWrite w s).vars = s.vars := rfl

@[simp] theorem externalWrite_result (w : SlotValue) (s : State) :
    (externalWrite w s).result = s.result := rfl

@[simp] theorem externalWrite_mem (w : SlotValue) (s : State) :
    (externalWrite w s).mem = s.mem.store64 w := rfl

@[simp] theorem externalWrite_superseded (w : SlotValue) (s : State) :
    (externalWrite w s).superseded = { ns := w.ns, slot := w.slot, value := s.mem.answer64 w.ns s.tick (slotAddress w.slot) } :: s.superseded := rfl

@[simp] theorem externalWrite_earlierRegisters (w : SlotValue) (s : State) :
    (externalWrite w s).earlierRegisters = s.earlierRegisters := rfl

@[simp] theorem externalWrite_madeWalks (w : SlotValue) (s : State) :
    (externalWrite w s).madeWalks = s.madeWalks := rfl

@[simp] theorem externalWrite_inputs (w : SlotValue) (s : State) :
    (externalWrite w s).inputs = s.inputs := rfl

@[simp] theorem externalWrite_stage2 (w : SlotValue) (s : State) :
    (externalWrite w s).stage2 = s.stage2 := rfl

@[simp] theorem externalWrite_tick (w : SlotValue) (s : State) :
    (externalWrite w s).tick = s.tick + 1 := rfl

@[simp] theorem readDescriptor_config (r : ReadRequest) (s : State) :
    (readDescriptor r s).config = s.config := rfl

@[simp] theorem readDescriptor_regs (r : ReadRequest) (s : State) :
    (readDescriptor r s).regs = s.regs := rfl

@[simp] theorem readDescriptor_phase (r : ReadRequest) (s : State) :
    (readDescriptor r s).phase = s.phase := rfl

@[simp] theorem readDescriptor_call (r : ReadRequest) (s : State) :
    (readDescriptor r s).call = s.call := rfl

@[simp] theorem readDescriptor_result (r : ReadRequest) (s : State) :
    (readDescriptor r s).result = s.result := rfl

@[simp] theorem readDescriptor_mem (r : ReadRequest) (s : State) :
    (readDescriptor r s).mem = s.mem := rfl

@[simp] theorem readDescriptor_superseded (r : ReadRequest) (s : State) :
    (readDescriptor r s).superseded = s.superseded := rfl

@[simp] theorem readDescriptor_earlierRegisters (r : ReadRequest) (s : State) :
    (readDescriptor r s).earlierRegisters = s.earlierRegisters := rfl

@[simp] theorem readDescriptor_madeWalks (r : ReadRequest) (s : State) :
    (readDescriptor r s).madeWalks = s.madeWalks := rfl

@[simp] theorem readDescriptor_inputs (r : ReadRequest) (s : State) :
    (readDescriptor r s).inputs = s.inputs := rfl

@[simp] theorem readDescriptor_stage2 (r : ReadRequest) (s : State) :
    (readDescriptor r s).stage2 = s.stage2 := rfl

@[simp] theorem readDescriptor_tick (r : ReadRequest) (s : State) :
    (readDescriptor r s).tick = s.tick + 1 := rfl

@[simp] theorem readDescriptor_params (r : ReadRequest) (s : State) :
    (readDescriptor r s).vars.params = s.vars.params := rfl

@[simp] theorem readDescriptor_level (r : ReadRequest) (s : State) :
    (readDescriptor r s).vars.level = s.vars.level := rfl

@[simp] theorem readDescriptor_reads (r : ReadRequest) (s : State) :
    (readDescriptor r s).vars.reads = s.vars.reads + 1 := rfl

@[simp] theorem readDescriptor_descaddr2 (r : ReadRequest) (s : State) :
    (readDescriptor r s).vars.descaddr2 = r := rfl

@[simp] theorem addressVars_params (v : Vars) : (addressVars v).params = v.params := rfl

@[simp] theorem addressVars_secure (v : Vars) : (addressVars v).secure = v.secure := rfl

@[simp] theorem addressVars_el (v : Vars) : (addressVars v).el = v.el := rfl

@[simp] theorem addressVars_level (v : Vars) : (addressVars v).level = v.level := rfl

@[simp] theorem addressVars_outputsize (v : Vars) : (addressVars v).outputsize = v.outputsize := rfl

@[simp] theorem addressVars_baseaddress (v : Vars) : (addressVars v).baseaddress = v.baseaddress := rfl

@[simp] theorem addressVars_nsTable (v : Vars) : (addressVars v).nsTable = v.nsTable := rfl

@[simp] theorem addressVars_apTable (v : Vars) : (addressVars v).apTable = v.apTable := rfl

@[simp] theorem addressVars_xnTable (v : Vars) : (addressVars v).xnTable = v.xnTable := rfl

@[simp] theorem addressVars_pxnTable (v : Vars) : (addressVars v).pxnTable = v.pxnTable := rfl

@[simp] theorem addressVars_addrselecttop (v : Vars) : (addressVars v).addrselecttop = v.addrselecttop := rfl

@[simp] theorem addressVars_reads (v : Vars) : (addressVars v).reads = v.reads := rfl

@[simp] theorem changeRegisters_config (r : Registers) (s : State) :
    (changeRegisters r s).config = s.config := rfl

@[simp] theorem changeRegisters_regs (r : Registers) (s : State) :
    (changeRegisters r s).regs = r := rfl

@[simp] theorem changeRegisters_phase (r : Registers) (s : State) :
    (changeRegisters r s).phase = s.phase := rfl

@[simp] theorem changeRegisters_call (r : Registers) (s : State) :
    (changeRegisters r s).call = s.call := rfl

@[simp] theorem changeRegisters_vars (r : Registers) (s : State) :
    (changeRegisters r s).vars = s.vars := rfl

@[simp] theorem changeRegisters_result (r : Registers) (s : State) :
    (changeRegisters r s).result = s.result := rfl

@[simp] theorem changeRegisters_mem (r : Registers) (s : State) :
    (changeRegisters r s).mem = s.mem := rfl

@[simp] theorem changeRegisters_superseded (r : Registers) (s : State) :
    (changeRegisters r s).superseded = s.superseded := rfl

@[simp] theorem changeRegisters_earlierRegisters (r : Registers) (s : State) :
    (changeRegisters r s).earlierRegisters = s.regs :: s.earlierRegisters := rfl

@[simp] theorem changeRegisters_madeWalks (r : Registers) (s : State) :
    (changeRegisters r s).madeWalks = s.madeWalks := rfl

@[simp] theorem changeRegisters_inputs (r : Registers) (s : State) :
    (changeRegisters r s).inputs = s.inputs := rfl

@[simp] theorem changeRegisters_stage2 (r : Registers) (s : State) :
    (changeRegisters r s).stage2 = s.stage2 := rfl

@[simp] theorem changeRegisters_tick (r : Registers) (s : State) :
    (changeRegisters r s).tick = s.tick := rfl

end Sys2Proof.Machine
end

