-- ==== Sys2Proof/Laws/Ops.lean ====
section
/-! SUPPORT. One lemma for each shared operation: everything it can do. -/

namespace Sys2Proof.Machine

theorem faultArgs_eq (s : State) : faultArgs s = callFaultArgs s.call s.vars.level := rfl

/-- A table descriptor either faults on its address or goes down (R117 to R120). -/
theorem descend_cases (desc : Descriptor) (s : State) :
    (¬ FitsOutputSize s.vars.outputsize desc ∧ descend desc s = raiseAddressSizeFault s) ∨
    (FitsOutputSize s.vars.outputsize desc ∧
      descend desc s = s.withVars (descendVars s.call.secondstage desc s.vars)) := by
  have h := exceedsOutputSize_eq_false_iff s.vars.outputsize desc
  unfold descend
  split
  · rename_i e
    exact .inl ⟨fun f => by simp [h.mpr f] at e, rfl⟩
  · rename_i e
    exact .inr ⟨h.mp (by simpa using e), rfl⟩

theorem contiguousCheck_iff (v : Vars) : contiguousCheck v = true ↔ Misprogrammed v := by
  unfold contiguousCheck Misprogrammed
  cases v.params.largegrain <;> cases v.params.midgrain <;> simp

/-- A leaf descriptor, check by check in the order of R156. -/
theorem finishWalk_cases (desc : Descriptor) (s : State) :
    (s.vars.level < s.vars.params.firstblocklevel ∧
      finishWalk desc s = raiseTranslationFault (s.withVars { s.vars with blocktranslate := true })) ∨
    (s.vars.params.firstblocklevel ≤ s.vars.level ∧ ¬ ContiguousAccepted desc s ∧
      finishWalk desc s = raiseTranslationFault (s.withVars (leafVars s.vars))) ∨
    (s.vars.params.firstblocklevel ≤ s.vars.level ∧ ContiguousAccepted desc s ∧
      ¬ FitsOutputSize s.vars.outputsize desc ∧
      finishWalk desc s = raiseAddressSizeFault (s.withVars (leafVars s.vars))) ∨
    (s.vars.params.firstblocklevel ≤ s.vars.level ∧ ContiguousAccepted desc s ∧
      FitsOutputSize s.vars.outputsize desc ∧ desc.getLsbD 10 = false ∧
      finishWalk desc s = raiseAccessFlagFault (s.withVars (leafVars s.vars))) ∨
    (LeafAccepted desc s ∧
      finishWalk desc s =
        returnTranslation (translationOf s.call s.tick (unpackVars desc (leafVars s.vars)))
          (s.withVars (unpackVars desc (leafVars s.vars)))) := by
  have hf := exceedsOutputSize_eq_false_iff s.vars.outputsize desc
  have hc : ((leafVars s.vars).contiguousbitcheck && bit desc 52 == 1#1 && s.config.contigFault) = true ↔
      ¬ ContiguousAccepted desc s := by
    have e : (leafVars s.vars).contiguousbitcheck = contiguousCheck s.vars := rfl
    simp [e, ContiguousAccepted, contiguousCheck_iff, bit_eq_one_iff]
    tauto
  unfold finishWalk
  split
  · rename_i h; exact .inl ⟨h, rfl⟩
  · rename_i h
    have hl : s.vars.params.firstblocklevel ≤ s.vars.level := by omega
    refine .inr ?_
    dsimp only
    split
    · rename_i h2; exact .inl ⟨hl, hc.mp h2, rfl⟩
    · rename_i h2
      have hca : ContiguousAccepted desc s := by
        by_contra hn; exact h2 (hc.mpr hn)
      refine .inr ?_
      split
      · rename_i h3
        have h3' : exceedsOutputSize s.vars.outputsize desc = true := h3
        exact .inl ⟨hl, hca, fun f => (Bool.eq_false_iff.mp (hf.mpr f)) h3', rfl⟩
      · rename_i h3
        have hfit : FitsOutputSize s.vars.outputsize desc := hf.mp (Bool.eq_false_iff.mpr h3)
        refine .inr ?_
        split
        · rename_i h4; exact .inl ⟨hl, hca, hfit, (bit_eq_zero_iff _ _).mp h4, rfl⟩
        · rename_i h4
          refine .inr ⟨⟨hl, hca, hfit, ?_⟩, rfl⟩
          rw [bit_eq_zero_iff] at h4
          simpa using h4

/-- A call is refused, or the walk starts on a well-formed record (R80, R82, R90). -/
theorem enterWalk_cases (c : Call) (supplied : Option WalkParams) (s : State) :
    (∃ r, enterWalk c supplied s = .refused r) ∨
    (∃ p, p.wellFormed = true ∧ enterWalk c supplied s = .next (startWalk c p s) ∧
      (supplied = some p ∨ supplied = none ∧ p = admittedParams s.config s.regs c)) := by
  unfold enterWalk
  split
  · exact .inl ⟨_, rfl⟩
  split
  · exact .inl ⟨_, rfl⟩
  split
  · exact .inl ⟨_, rfl⟩
  split
  · exact .inl ⟨_, rfl⟩
  · rename_i p hp
    split
    · rename_i hw
      refine .inr ⟨p, hw, rfl, ?_⟩
      cases supplied with
      | some q => simp at hp; exact .inl (by rw [hp])
      | none =>
        refine .inr ⟨rfl, ?_⟩
        simp only [deriveParams] at hp
        split at hp
        · cases hp
        split at hp
        · cases hp
        split at hp
        · cases hp
        · simpa using hp.symm
    · exact .inl ⟨_, rfl⟩

/-- An entry at other register values is the call's entry there, seen from the walk of now. -/
theorem entryAt_eq_some {c : Call} {now s e : State} {r : Registers} {sup : Option WalkParams}
    (h : entryAt c now s r sup = some e) :
    ∃ t, enterWalk c sup { s with regs := r } = .next t ∧
      e = { t with regs := now.regs, madeWalks := now.madeWalks } := by
  unfold entryAt at h
  cases ho : enterWalk c sup { s with regs := r } with
  | next t => rw [ho] at h; exact ⟨t, rfl, (Option.some.inj h).symm⟩
  | fault f => rw [ho] at h; cases h
  | refused f => rw [ho] at h; cases h

/-- An earlier time is one of registers that were replaced, or of those of now. -/
theorem mem_earlierTimes {made : List MadeWalk} {s : State} {r : Registers} (h : r ∈ earlierTimes made s) :
    r ∈ s.regs :: s.earlierRegisters := by
  unfold earlierTimes at h
  split at h
  · exact h
  · exact List.mem_cons_of_mem _ h

/-- A walk that a translation may answer from an earlier time is one that a walk made since launch for the same input
tells of, or one with registers of an earlier time (R174), on the record derived from them where that derivation is not
lost and none is supplied. -/
theorem mem_staleEntries {c : Call} {supplied : Option WalkParams} {now s e : State}
    (h : e ∈ staleEntries c supplied now s) :
    ∃ r sup t, enterWalk c sup { s with regs := r } = .next t ∧
      e = { t with regs := now.regs, madeWalks := now.madeWalks } ∧
      ((∃ w ∈ otherWalks c now, w.regs = r ∧ sup = some w.params) ∨
        (r ∈ s.regs :: s.earlierRegisters ∧
          (supplied = none → (∃ p, deriveParams s.config r c = .ok p) → sup = none))) := by
  rcases List.mem_append.mp h with h | h
  · obtain ⟨w, hw, he⟩ := List.mem_filterMap.mp h
    obtain ⟨t, ht, rfl⟩ := entryAt_eq_some he
    exact ⟨w.regs, _, t, ht, rfl, .inl ⟨w, hw, rfl, rfl⟩⟩
  · obtain ⟨r, hr, hm⟩ := List.mem_flatMap.mp h
    obtain ⟨sup, hs, he⟩ := List.mem_filterMap.mp hm
    obtain ⟨t, ht, rfl⟩ := entryAt_eq_some he
    refine ⟨r, sup, t, ht, rfl, .inr ⟨mem_earlierTimes hr, fun h1 ⟨p, h2⟩ => ?_⟩⟩
    simpa [earlierRecords, h1, h2] using hs

/-- Where every walk made since launch for the input of a call was made as the walk of now, and no register has
changed, a translation has no other walk than the one of now. -/
theorem staleEntries_eq_nil {c : Call} {supplied : Option WalkParams} {now s : State} (h0 : s.earlierRegisters = [])
    (h1 : ∀ w ∈ now.madeWalks, sameInput w.call c = true → w.regs = now.regs ∧ w.params = now.vars.params)
    (h2 : recordsDiffer s.regs now.madeWalks = false) : staleEntries c supplied now s = [] := by
  have h3 : otherWalks c now = [] := List.filter_eq_nil_iff.mpr fun w hw hb => by
    simp only [Bool.and_eq_true, Bool.not_eq_true', Bool.and_eq_false_iff] at hb
    obtain ⟨e1, e2⟩ := h1 w hw hb.1
    simp [e1, e2] at hb
  simp [staleEntries, h3, earlierTimes, h2, h0]

/-- The derivation of a call without a record is the admitted one exactly for stage 1 of EL1&0, lower half (R90). -/
theorem deriveParams_ok_iff (cfg : Config) (r : Registers) (c : Call) :
    (∃ p, deriveParams cfg r c = .ok p) ↔
      c.secondstage = false ∧ r.s1Regime = .el1 ∧ bit c.vaddress c.top = 0#1 := by
  unfold deriveParams
  cases c.secondstage <;> simp
  by_cases h : r.s1Regime = .el1 <;> by_cases h2 : bit c.vaddress c.top = 0#1 <;> simp [h, h2]

/-- The start of a walk: a fault at level 0, or the head of the loop (R97 to R101). -/
theorem startWalk_cases (c : Call) (p : WalkParams) (s : State) :
    ((p.basefound = false ∨ p.disabled = true) ∧
      startWalk c p s = raiseTranslationFault (beginWalk c (freshVars p s.regs) s)) ∨
    (p.basefound = true ∧ p.disabled = false ∧
      ¬ FitsOutputSize (outputSize p.ps s.config.paMax) p.baseregister ∧
      startWalk c p s = raiseAddressSizeFault (beginWalk c (freshVars p s.regs) s)) ∨
    (p.basefound = true ∧ p.disabled = false ∧
      FitsOutputSize (outputSize p.ps s.config.paMax) p.baseregister ∧
      startWalk c p s = beginWalk c (loopVars s.config p s.regs) s) := by
  have hf := exceedsOutputSize_eq_false_iff (outputSize p.ps s.config.paMax) p.baseregister
  unfold startWalk
  split
  · rename_i h
    exact .inl ⟨by simpa using h, rfl⟩
  · rename_i h
    simp only [Bool.or_eq_true, Bool.not_eq_true', not_or, Bool.not_eq_false, Bool.not_eq_true] at h
    refine .inr ?_
    split
    · rename_i h2
      exact .inl ⟨h.1, h.2, fun f => by rw [← hf] at f; exact absurd h2 (by simpa using f), rfl⟩
    · rename_i h2
      exact .inr ⟨h.1, h.2, hf.mp (by simpa using h2), rfl⟩

/-- The entry of a call keeps the registers and records the walk, whose record is the one supplied or derived. -/
theorem enterWalk_made {c : Call} {supplied : Option WalkParams} {s t : State}
    (h : enterWalk c supplied s = .next t) :
    t.regs = s.regs ∧ t.madeWalks = { regs := s.regs, call := c, params := t.vars.params } :: s.madeWalks ∧
      (supplied = some t.vars.params ∨ supplied = none ∧ t.vars.params = admittedParams s.config s.regs c) := by
  rcases enterWalk_cases c supplied s with ⟨_, e⟩ | ⟨p, _, e, hp⟩ <;> rw [e] at h <;> cases h
  rcases startWalk_cases c p s with ⟨_, e⟩ | ⟨_, _, _, e⟩ | ⟨_, _, _, e⟩ <;> rw [e] <;> exact ⟨rfl, rfl, hp⟩

/-- A choice from a list is one of its elements. -/
theorem getD_mod_mem {α : Type} (x y : α) (rest : List α) (n : Nat) :
    (x :: y :: rest).getD (n % (rest.length + 2)) x ∈ x :: y :: rest := by
  have h : n % (rest.length + 2) < (x :: y :: rest).length := Nat.mod_lt _ (Nat.succ_pos _)
  rw [List.getD_eq_getElem _ _ h]
  exact List.getElem_mem h

/-- A call without a record that has a meaning has a derivation. -/
theorem deriveParams_of_enterWalk {c : Call} {s t : State} (h : enterWalk c none s = .next t) :
    ∃ p, deriveParams s.config s.regs c = .ok p := by
  cases hd : deriveParams s.config s.regs c with
  | ok p => exact ⟨p, rfl⟩
  | error r =>
    simp only [enterWalk, hd] at h
    split at h
    · cases h
    split at h
    · cases h
    split at h <;> cases h

/-- A translation is refused where the call is, or is the entry of the call with registers and a record of now or of
an earlier time (R174). It is the entry of now where there is no other; and where the translation has no record and the
regime of that time is EL1&0, the record is the derived one or that of a walk made since launch. -/
theorem enterTranslation_cases (c : Call) (supplied : Option WalkParams) (s : State) :
    (∃ r, enterWalk c supplied s = .refused r ∧ enterTranslation c supplied s = .refused r) ∨
    (∃ now, enterWalk c supplied s = .next now ∧
      (staleEntries c supplied now s = [] → enterTranslation c supplied s = .next now) ∧
      ∃ r sup u n, enterWalk c sup { s with regs := r } = .next u ∧
        enterTranslation c supplied s = .next { u with regs := s.regs, tick := n, madeWalks := now.madeWalks } ∧
        (r ∈ s.regs :: s.earlierRegisters ∨ ∃ w ∈ s.madeWalks, w.regs = r) ∧
        (supplied = none → r.s1Regime = .el1 →
          sup = none ∨ ∃ w ∈ s.madeWalks, sameInput w.call c = true ∧ w.regs = r ∧ sup = some w.params)) := by
  rcases enterWalk_cases c supplied s with ⟨r, e⟩ | ⟨p, _, e, _⟩
  · exact .inl ⟨r, e, by rw [enterTranslation, e]⟩
  generalize startWalk c p s = now at e
  obtain ⟨hr, hm, -⟩ := enterWalk_made e
  refine .inr ⟨now, e, fun h => by simp [enterTranslation, e, h], ?_⟩
  have self : ∀ n, ∃ r sup u n', enterWalk c sup { s with regs := r } = .next u ∧
      (.next { now with tick := n } : Host.Outcome State Fault Refusal) =
        .next { u with regs := s.regs, tick := n', madeWalks := now.madeWalks } ∧
      (r ∈ s.regs :: s.earlierRegisters ∨ ∃ w ∈ s.madeWalks, w.regs = r) ∧
      (supplied = none → r.s1Regime = .el1 →
        sup = none ∨ ∃ w ∈ s.madeWalks, sameInput w.call c = true ∧ w.regs = r ∧ sup = some w.params) :=
    fun n => ⟨s.regs, supplied, now, n, e, by rw [← hr], .inl (List.mem_cons_self ..), fun h _ => .inl h⟩
  unfold enterTranslation
  rw [e]
  dsimp only
  cases hs : staleEntries c supplied now s with
  | nil => exact self now.tick
  | cons x rest =>
    have hd := getD_mod_mem now x rest (Config.staleChoice s.tick)
    dsimp only
    generalize (now :: x :: rest).getD (Config.staleChoice s.tick % (rest.length + 2)) now = d at hd
    rcases List.mem_cons.mp hd with rfl | h
    · exact self (s.tick + 1)
    rw [← hs] at h
    obtain ⟨r, sup, t, ht, rfl, hk⟩ := mem_staleEntries h
    refine ⟨r, sup, t, s.tick + 1, ht, by rw [← hr], ?_⟩
    rcases hk with ⟨w, hw, rfl, rfl⟩ | ⟨hmem, hsup⟩
    · obtain ⟨hw, hb⟩ := List.mem_filter.mp hw
      simp only [Bool.and_eq_true] at hb
      rw [hm] at hw
      rcases List.mem_cons.mp hw with rfl | hw
      · simp [hr] at hb
      · exact ⟨.inr ⟨w, hw, rfl⟩, fun _ _ => .inr ⟨w, hw, hb.1, rfl, rfl⟩⟩
    · refine ⟨.inl hmem, fun hn hr1 => .inl (hsup hn ?_)⟩
      subst hn
      have hnow := (deriveParams_ok_iff ..).mp (deriveParams_of_enterWalk e)
      exact (deriveParams_ok_iff ..).mpr ⟨hnow.1, hr1, hnow.2.2⟩

/-- At the levels 0 to 3 every word is a descriptor (R61). -/
theorem decodeWord_total (level : Nat) (w : Descriptor) (h : level ≤ 3) : ∃ i, decodeWord level w = .ok i := by
  have h' : ¬ 3 < level := by omega
  unfold decodeWord
  simp only [h', if_false]
  split
  · exact ⟨_, rfl⟩
  · split <;> split <;> exact ⟨_, rfl⟩

/-- The read of a request decodes at the level of the walk, or the level is above 3. -/
theorem fetchRequest_cases (r : ReadRequest) (s : State) :
    (3 < s.vars.level ∧ fetchRequest r s = .noSuchLevel) ∨
    (∃ i, decodeWord s.vars.level (readDescriptor r s).vars.desc = .ok i ∧
      fetchRequest r s = .descriptor i (readDescriptor r s)) := by
  unfold fetchRequest
  dsimp only [readDescriptor_level]
  by_cases h : 3 < s.vars.level
  · exact .inl ⟨h, by simp [decodeWord, h]⟩
  · obtain ⟨i, hi⟩ := decodeWord_total s.vars.level (readDescriptor r s).vars.desc (by omega)
    exact .inr ⟨i, hi, by rw [hi]⟩

/-- Everything a fetch can do: stage 2's fault returned, or a descriptor read at the address of R111 or at the one
stage 2 gives (R112), or a level above 3. -/
theorem fetch_cases (s : State) :
    (descaddrNeedsStage2 s = true ∧ (stage2Answer (s.withVars (addressVars s.vars))).fault ≠ .noFault ∧
      fetch s = .returned (returnFault (stage2Answer (s.withVars (addressVars s.vars))).fault
        { s.withVars (addressVars s.vars) with stage2 := s.stage2.tail, tick := s.tick + 1 })) ∨
    (descaddrNeedsStage2 s = true ∧ (stage2Answer (s.withVars (addressVars s.vars))).fault = .noFault ∧
      fetch s = fetchRequest
        (readRequest (stage2Answer (s.withVars (addressVars s.vars))).memattrs
          (stage2Answer (s.withVars (addressVars s.vars))).paddress s.call)
        { s.withVars (addressVars s.vars) with stage2 := s.stage2.tail }) ∨
    (descaddrNeedsStage2 s = false ∧
      fetch s = fetchRequest (readRequest s.vars.descaddr.memattrs (descriptorAddress s.vars) s.call)
        (s.withVars (addressVars s.vars))) := by
  have hn : descaddrNeedsStage2 (s.withVars (addressVars s.vars)) = descaddrNeedsStage2 s := rfl
  unfold fetch
  dsimp only
  rw [hn]
  cases h : descaddrNeedsStage2 s with
  | false => exact .inr (.inr ⟨rfl, rfl⟩)
  | true =>
    simp only [if_true]
    by_cases hf : (stage2Answer (s.withVars (addressVars s.vars))).fault = .noFault
    · refine .inr (.inl ⟨trivial, hf, ?_⟩)
      have : isFault (stage2Answer (s.withVars (addressVars s.vars))).fault = false := by simp [isFault, hf]
      rw [this]; rfl
    · refine .inl ⟨trivial, hf, ?_⟩
      have : isFault (stage2Answer (s.withVars (addressVars s.vars))).fault = true := by simp [isFault, hf]
      rw [this]; rfl

/-- Without a racing write a read answers memory's present contents (R44, D12). -/
theorem memRead_unraced (s : State) (p : FullAddress)
    (h : earlierValues s p.ns p.physicaladdress.toNat = []) :
    memRead s p = s.mem.answer64 p.ns s.tick p.physicaladdress.toNat := by
  simp [memRead, h]

end Sys2Proof.Machine
end

