-- ==== Sys2Proof/Laws/PerInstr.lean ====
section
/-! SUPPORT. Statements about every descriptor class, one lemma for each constructor. -/

namespace Sys2Proof.Laws

/-- The encoding of a descriptor matches the row of R61 that carries its mnemonic. -/
def EncodeMatchesRow.Statement (i : Instr) : Prop :=
  ∃ row ∈ opcodeRows, row.mnemonic = i.mnemonic ∧ encode i &&& row.mask = row.pattern

/-- A concatenation whose low part is all the mask looks at. -/
theorem append_and_mask {n m : Nat} (h : n + m = 64) (a : BitVec n) (low : BitVec m) (mask pattern : BitVec 64)
    (hm : ∀ k, m ≤ k → mask.getLsbD k = false)
    (hp : ∀ k, k < 64 → pattern.getLsbD k = (low.getLsbD k && mask.getLsbD k)) :
    (BitVec.cast h (a ++ low)) &&& mask = pattern := by
  apply BitVec.eq_of_getLsbD_eq
  intro k hk
  rw [hp k hk, BitVec.getLsbD_and, BitVec.getLsbD_cast, BitVec.getLsbD_append]
  by_cases hkm : k < m
  · simp [hkm]
  · simp [hm k (by omega)]

theorem mask_one_bit (k : Nat) (hk : 1 ≤ k) : (0x1#64).getLsbD k = false := by
  by_cases h : k < 64
  · revert hk; revert h; revert k; decide
  · exact BitVec.getLsbD_of_ge _ _ (by omega)

theorem mask_two_bits (k : Nat) (hk : 2 ≤ k) : (0x3#64).getLsbD k = false := by
  by_cases h : k < 64
  · revert hk; revert h; revert k; decide
  · exact BitVec.getLsbD_of_ge _ _ (by omega)

theorem EncodeMatchesRow.invalid (rest : BitVec 63) : EncodeMatchesRow.Statement (.invalid rest) := by
  refine ⟨_, List.mem_cons_self .., rfl, ?_⟩
  exact append_and_mask rfl rest 0b0#1 _ _ mask_one_bit (by decide)

theorem EncodeMatchesRow.reservedL3 (rest : BitVec 62) : EncodeMatchesRow.Statement (.reservedL3 rest) := by
  refine ⟨_, List.mem_cons_of_mem _ (List.mem_cons_self ..), rfl, ?_⟩
  exact append_and_mask rfl rest 0b01#2 _ _ mask_two_bits (by decide)

theorem EncodeMatchesRow.block (fields : LeafFields) : EncodeMatchesRow.Statement (.block fields) := by
  refine ⟨_, List.mem_cons_of_mem _ (List.mem_cons_of_mem _ (List.mem_cons_self ..)), rfl, ?_⟩
  exact append_and_mask rfl _ 0b01#2 _ _ mask_two_bits (by decide)

theorem EncodeMatchesRow.table (fields : TableFields) : EncodeMatchesRow.Statement (.table fields) := by
  refine ⟨_, List.mem_cons_of_mem _ (List.mem_cons_of_mem _ (List.mem_cons_of_mem _ (List.mem_cons_self ..))),
    rfl, ?_⟩
  exact append_and_mask rfl _ 0b11#2 _ _ mask_two_bits (by decide)

theorem EncodeMatchesRow.page (fields : LeafFields) : EncodeMatchesRow.Statement (.page fields) := by
  refine ⟨_, List.mem_cons_of_mem _ (List.mem_cons_of_mem _ (List.mem_cons_of_mem _ (List.mem_cons_of_mem _
    (List.mem_cons_self ..)))), rfl, ?_⟩
  exact append_and_mask rfl _ 0b11#2 _ _ mask_two_bits (by decide)

end Sys2Proof.Laws
end

