-- ==== Sys2Proof/Laws/Step.lean ====
section
/-! SUPPORT. What one step can do. -/

namespace Sys2Proof.Machine

/-- Everything a step can do, by who moves. -/
theorem step_cases (s : State) :
    (∃ w rest, s.inputs = .memoryWrite w :: rest ∧ step s = .next (externalWrite w { s with inputs := rest })) ∨
    (∃ r rest, s.inputs = .registers r :: rest ∧ step s = .next (changeRegisters r { s with inputs := rest })) ∨
    (s.phase = .idle ∧ walkersTurn s ∧ step s = .next { s with inputs := s.inputs.tail }) ∨
    (s.phase = .fetching ∧ walkersTurn s ∧ step s = iterate { s with inputs := s.inputs.tail }) ∨
    (s.phase = .fetching ∧ step s = iterate s ∧
      ∃ c rest, Asks s c rest) ∨
    (s.phase = .idle ∧ ∃ c sup rest,
      ((s.inputs = .call c :: rest ∧ sup = none) ∨ ∃ p, s.inputs = .callWith c p :: rest ∧ sup = some p) ∧
      step s = enterWalk c sup { s with inputs := rest }) ∨
    (s.phase = .idle ∧ ∃ c sup rest, s.inputs = .translate c sup :: rest ∧
      step s = enterTranslation c sup { s with inputs := rest }) := by
  obtain ⟨config, regs, phase, call, vars, result, mem, superseded, earlier, made, inputs, stage2, tick⟩ := s
  cases inputs with
  | nil =>
    cases phase
    · exact .inr (.inr (.inl ⟨rfl, .inl rfl, rfl⟩))
    · exact .inr (.inr (.inr (.inl ⟨rfl, .inl rfl, rfl⟩)))
  | cons i rest =>
    cases i with
    | walker =>
      cases phase
      · exact .inr (.inr (.inl ⟨rfl, .inr ⟨rest, rfl⟩, rfl⟩))
      · exact .inr (.inr (.inr (.inl ⟨rfl, .inr ⟨rest, rfl⟩, rfl⟩)))
    | memoryWrite w => exact .inl ⟨w, rest, rfl, rfl⟩
    | registers r => exact .inr (.inl ⟨r, rest, rfl, rfl⟩)
    | call c =>
      cases phase
      · exact .inr (.inr (.inr (.inr (.inr (.inl ⟨rfl, c, none, rest, .inl ⟨rfl, rfl⟩, rfl⟩)))))
      · exact .inr (.inr (.inr (.inr (.inl ⟨rfl, rfl, c, rest, .inl rfl⟩))))
    | translate c sup =>
      cases phase
      · exact .inr (.inr (.inr (.inr (.inr (.inr ⟨rfl, c, sup, rest, rfl, rfl⟩)))))
      · exact .inr (.inr (.inr (.inr (.inl ⟨rfl, rfl, c, rest, .inr (.inr ⟨sup, rfl⟩)⟩))))
    | callWith c p =>
      cases phase
      · exact .inr (.inr (.inr (.inr (.inr (.inl ⟨rfl, c, some p, rest, .inr ⟨p, rfl, rfl⟩, rfl⟩)))))
      · exact .inr (.inr (.inr (.inr (.inl ⟨rfl, rfl, c, rest, .inr (.inl ⟨p, rfl⟩)⟩))))

/-- Everything an iteration can do, from the fetch. -/
theorem iterate_cases (s : State) :
    (∃ t, fetch s = .returned t ∧ iterate s = .next t) ∨
    (∃ i t, fetch s = .descriptor i t ∧ iterate s = exec i t) ∨
    (fetch s = .noSuchLevel ∧ iterate s = .fault .noSuchLevel) := by
  unfold iterate
  cases h : fetch s with
  | returned t => exact .inl ⟨t, rfl, rfl⟩
  | descriptor i t => exact .inr (.inl ⟨i, t, rfl, rfl⟩)
  | noSuchLevel => exact .inr (.inr ⟨rfl, rfl⟩)

/-- The effect of a descriptor, class by class. -/
theorem exec_cases (i : Instr) (s : State) :
    (∃ rest, i = .invalid rest ∧ exec i s = .next (raiseTranslationFault s)) ∨
    (∃ rest, i = .reservedL3 rest ∧ exec i s = .next (raiseTranslationFault s)) ∨
    (∃ f, i = .table f ∧ exec i s = .next (descend (encode i) s)) ∨
    (∃ f, (i = .block f ∨ i = .page f) ∧ exec i s = .next (finishWalk (encode i) s)) := by
  cases i with
  | invalid rest => exact .inl ⟨rest, rfl, rfl⟩
  | reservedL3 rest => exact .inr (.inl ⟨rest, rfl, rfl⟩)
  | table f => exact .inr (.inr (.inl ⟨f, rfl, rfl⟩))
  | block f => exact .inr (.inr (.inr ⟨f, .inl rfl, rfl⟩))
  | page f => exact .inr (.inr (.inr ⟨f, .inr rfl, rfl⟩))

end Sys2Proof.Machine
end

