-- ==== Sys2Proof/Tests/Slice0.lean ====
section
/-! SUPPORT. The model's own tests: well-formedness, decoding, one step on the tables of spec/95_test_vectors.md, and
for every statement that has hypotheses a state that meets them. -/

namespace Sys2Proof.Tests

open Sys2Proof Sys2Proof.Machine

/-! ## Builders -/

/-- A machine of spec/95_test_vectors.md: PAMax 48, no EL2; the contiguous bit faults. -/
def cfg : Config := { paMax := 48, haveEL2 := false, contigFault := true, grain := GrainTable.d1 }

/-- A 64-bit value at an address that is a multiple of 8. -/
def cell (ns : Bit) (address value : Nat) : SlotValue :=
  { ns := ns, slot := BitVec.ofNat 45 (address / 8), value := BitVec.ofNat 64 value }

/-- Memory that holds one value. -/
def memoryOf (w : SlotValue) : Memory := Memory.empty.store64 w

/-- The parameter record of P1's call: Non-secure, mid grain, 48 input bits. -/
def params1 : WalkParams :=
  { WalkParams.reset with
    inputaddr := 0x0000123456789ABC#64, inputsize := 48, midgrain := true, basefound := true
    baseregister := 0x80000000#64, memattrs := .walkAttr 0#2 0#2 0#2, ps := 0b101#3, grainsize := 14
    firstblocklevel := 2, stride := 11 }

/-- The small grain record of 2.9b: 33 input bits, start level 1. -/
def paramsSmall : WalkParams :=
  { params1 with
    inputaddr := 0x76543210#64, inputsize := 33, midgrain := false, grainsize := 12, firstblocklevel := 1
    stride := 9, level := 1 }

/-- The large grain record of P5: 33 input bits, start level 2. -/
def paramsLarge : WalkParams :=
  { params1 with
    inputaddr := 0x1A2B3C4D5#64, inputsize := 33, midgrain := false, largegrain := true, grainsize := 16
    stride := 13, level := 2 }

/-- The mid grain record of 2.9a: 28 input bits, start level 2. -/
def paramsMid : WalkParams := { params1 with inputaddr := 0x0A345678#64, inputsize := 28, level := 2 }

/-- The variables of a Non-secure walk at a level of a record, at a table's address. -/
def varsAt (p : WalkParams) (level base top : Nat) : Vars :=
  { loopVars cfg p Registers.reset with
    level := level, baseaddress := BitVec.ofNat 48 base, addrselecttop := top, reads := level - p.level.toNat }

/-- An idle machine with this configuration. -/
def idle : State := { State.reset with config := cfg }

/-- A machine at the head of the loop. -/
def walking (v : Vars) : State := { idle with phase := .fetching, vars := v }

/-- The head of the loop, with `addrselectbottom` as R111 leaves it: the state in which a descriptor has its
effect. -/
def fetched (v : Vars) : State := walking (addressVars v)

/-- P1's walk at its levels 0 to 3. -/
def p1 (level : Nat) : Vars :=
  match level with
  | 0 => varsAt params1 0 0x80000000 47
  | 1 => varsAt params1 1 0x80004000 46
  | 2 => { varsAt params1 2 0x80008000 35 with apTable := 0b01#2 }
  | _ => { varsAt params1 3 0x8000C000 24 with apTable := 0b01#2 }

/-- A field of the state after a step that answers a next state. -/
def after {α : Type} (o : Host.Outcome State Fault Refusal) (f : State → α) : Option α :=
  match o with
  | .next t => some (f t)
  | .fault _ => none
  | .refused _ => none

/-- The fields of a translation that the vectors list. -/
structure Summary where
  pa : BitVec 48
  ns : Bit
  level : Nat
  ap : BitVec 3
  xn : Bit
  pxn : Bit
  nG : Bit
  contiguous : Bool
deriving DecidableEq, Repr

/-- What the vectors list of a walk's success. -/
def summary (r : Option WalkResult) : Option Summary :=
  match r with
  | some (.ok t) =>
    some ⟨t.paddress.physicaladdress, t.paddress.ns, t.level, t.perms.ap, t.perms.xn, t.perms.pxn, t.nG, t.contiguous⟩
  | some (.fault _) => none
  | none => none

/-- A call of P1's address. -/
def call1 : Call := { Call.reset with vaddress := 0x0000123456789ABC#64 }

/-- P1's registers. -/
def regs1 : Registers :=
  { Registers.reset with
    tcrEl1 := { Registers.reset.tcrEl1 with tg0 := 0b10#2, ips := 0b101#3 }, ttbr0El1 := 0x80000000#64 }

/-- A machine to which a call has come. -/
def called (r : Registers) (c : Call) : State := { idle with regs := r, inputs := [.call c] }

/-- A machine to which a call with its parameter record has come. -/
def calledWith (c : Call) (p : WalkParams) : State := { idle with inputs := [.callWith c p] }

/-- P1's registers with walks disabled. -/
def regsOff : Registers := { regs1 with tcrEl1 := { regs1.tcrEl1 with epd0 := 1#1 } }

/-- A machine that has held other registers and is asked for a translation. -/
def translating (r : Registers) (earlier : List Registers) (c : Call) (supplied : Option WalkParams := none) : State :=
  { idle with regs := r, earlierRegisters := earlier, inputs := [.translate c supplied] }

/-- The fault record of a call that leaves its other arguments at reset. -/
def args (level : Nat) : FaultArgs := callFaultArgs Call.reset level

/-- An address descriptor of stage 2. -/
def answer (f : FaultRecord) (address : Nat) : AddressDescriptor :=
  { fault := f, memattrs := .other 1, paddress := { physicaladdress := BitVec.ofNat 48 address, ns := 1#1 }
    vaddress := 0#64 }

/-! ## Well-formedness -/

theorem test_invalid_at_level_4_refused : (Instr.invalid 0#63).wellFormedAt 4 = false := by decide
theorem test_reservedL3_at_level_2_refused : (Instr.reservedL3 0#62).wellFormedAt 2 = false := by decide
theorem test_block_at_level_3_refused : (Instr.block (decodeLeaf 0#64)).wellFormedAt 3 = false := by decide
theorem test_table_at_level_3_refused : (Instr.table (decodeTable 0#64)).wellFormedAt 3 = false := by decide
theorem test_page_at_level_2_refused : (Instr.page (decodeLeaf 0#64)).wellFormedAt 2 = false := by decide
theorem test_paMax_zero_refused : { cfg with paMax := 0 }.wellFormed = false := by decide
theorem test_top_below_48_refused : topWellFormed 47 = false := by decide
theorem test_top_above_63_refused : topWellFormed 64 = false := by decide
theorem test_unknown_grain_refused : { params1 with grainsize := 13, stride := 10 }.wellFormed = false := by decide
theorem test_wrong_stride_refused : { params1 with stride := 9 }.wellFormed = false := by decide
theorem test_firstblocklevel_4_refused : { params1 with firstblocklevel := 4 }.wellFormed = false := by decide
theorem test_inputsize_24_refused : { params1 with inputsize := 24, level := 3 }.wellFormed = false := by decide
theorem test_inputsize_49_refused : { params1 with inputsize := 49 }.wellFormed = false := by decide
theorem test_start_level_4_refused : { params1 with level := 4 }.wellFormed = false := by decide
theorem test_empty_first_table_refused : { params1 with inputsize := 47 }.wellFormed = false := by decide
theorem test_params1_accepted : params1.wellFormed = true := by decide

/-! ## Decoding and encoding: words written out from R61 to R63 -/

/-- 95_test_vectors 2.6: '10' at level 3. -/
theorem test_decode_invalid : decodeWord 3 0x0060000090000F42#64 = .ok (.invalid 0x00300000480007A1#63) := by decide

/-- 95_test_vectors 2.6: '01' at level 3. -/
theorem test_decode_reservedL3 :
    decodeWord 3 0x0060000090000F41#64 = .ok (.reservedL3 0x00180000240003D0#62) := by decide

/-- P5's block: Contiguous (bit 52), AF (10), SH '11' (9:8), AttrIndx '001' (4:2), output 0x60000000. -/
theorem test_decode_block :
    decodeWord 2 0x0010000060000705#64 =
      .ok (.block { attrIndx := 0b001#3, ns := 0#1, ap := 0b00#2, sh := 0b11#2, af := 1#1, nG := 0#1
                    address := 0x60000#36, ignoredMid := 0#4, contiguous := 1#1, pxn := 0#1, xn := 0#1
                    ignoredHigh := 0#9 }) := by decide

/-- P3's level 1 table: NSTable (bit 63), next table 0x101000. -/
theorem test_decode_table :
    decodeWord 1 0x8000000000101003#64 =
      .ok (.table { ignoredLow := 0#10, address := 0x101#36, ignoredMid := 0#11, pxnTable := 0#1, xnTable := 0#1
                    apTable := 0b00#2, nsTable := 1#1 }) := by decide

/-- P1's page: XN (54), PXN (53), nG (11), AF (10), SH '11', AP '01' (7:6), output 0x90000000. -/
theorem test_decode_page :
    decodeWord 3 0x0060000090000F43#64 =
      .ok (.page { attrIndx := 0b000#3, ns := 0#1, ap := 0b01#2, sh := 0b11#2, af := 1#1, nG := 1#1
                   address := 0x90000#36, ignoredMid := 0#4, contiguous := 0#1, pxn := 1#1, xn := 1#1
                   ignoredHigh := 0#9 }) := by decide

/-- Every bit of the fields that R62 calls ignored is kept. -/
theorem test_decode_ignored_table_bits :
    (decodeTable 0x07FF000000000FFF#64).ignoredMid = 0x7FF#11 ∧ (decodeTable 0xFFC#64).ignoredLow = 0x3FF#10 := by
  decide

/-- P1's level 1 table in memory, byte by byte. -/
theorem test_decode_bytes :
    decode 1 [0x03#8, 0x80#8, 0x00#8, 0x80#8, 0x00#8, 0x00#8, 0x00#8, 0x20#8] =
      decodeWord 1 0x2000000080008003#64 := by decide

theorem test_decode_seven_bytes_refused : decode 1 (List.replicate 7 0#8) = .error .notEightBytes := by decide
theorem test_decode_level_4_refused : decodeWord 4 0#64 = .error .noSuchLevel := by decide

/-- No two rows of R61 match one word at one level. -/
theorem test_rows_disjoint :
    opcodeRows.Pairwise (fun a b => (∃ l ∈ a.levels, l ∈ b.levels) →
      a.pattern &&& (a.mask &&& b.mask) ≠ b.pattern &&& (a.mask &&& b.mask)) := by decide

/-- P1's page encodes to the word of the vector. -/
theorem test_encode_page :
    encode (.page { attrIndx := 0b000#3, ns := 0#1, ap := 0b01#2, sh := 0b11#2, af := 1#1, nG := 1#1
                    address := 0x90000#36, ignoredMid := 0#4, contiguous := 0#1, pxn := 1#1, xn := 1#1
                    ignoredHigh := 0#9 }) = 0x0060000090000F43#64 := by decide

/-! ## One step, from spec/95_test_vectors.md -/

/-- The step of P1's walk at a level, with a value at its descriptor's address there. -/
def p1Step (level address value : Nat) : Host.Outcome State Fault Refusal :=
  step { walking (p1 level) with mem := memoryOf (cell 1#1 address value) }

/-- 2.6: '10' at level 3. -/
theorem test_invalid :
    after (p1Step 3 0x8000CF10 0x0060000090000F42) State.result = some (some (.fault (.translation (args 3)))) := by
  decide

/-- 2.6: zero at level 2. -/
theorem test_invalid_zero :
    after (p1Step 2 0x80009158 0) State.result = some (some (.fault (.translation (args 2)))) := by decide

/-- 2.6: '01' at level 3. -/
theorem test_reservedL3 :
    after (p1Step 3 0x8000CF10 0x0060000090000F41) State.result = some (some (.fault (.translation (args 3)))) := by
  decide

/-- 2.6: a level 2 block under APTable '01'. -/
theorem test_block :
    after (p1Step 2 0x80009158 0x0000000090000F41) (fun t => summary t.result) =
      some (some ⟨0x000090789ABC#48, 1#1, 2, 0b001#3, 0#1, 0#1, 1#1, false⟩) := by decide

/-- 2.6: a block below `firstblocklevel`. -/
theorem test_block_below_first_block_level :
    after (p1Step 1 0x80004918 0x0000000090000F41) State.result = some (some (.fault (.translation (args 1)))) := by
  decide

/-- P1: the level 1 table gives the next table and APTable. -/
theorem test_table :
    after (p1Step 1 0x80004918 0x2000000080008003)
      (fun t => (t.vars.level, t.vars.baseaddress, t.vars.apTable, t.vars.addrselecttop, t.phase)) =
      some (2, 0x80008000#48, 0b01#2, 35, .fetching) := by decide

/-- 2.7: a table address with bit 32 set and 32 output bits. -/
theorem test_table_address_too_big :
    after (step { walking { p1 2 with outputsize := 32 } with
      mem := memoryOf (cell 1#1 0x80009158 0x000000018000C003) }) State.result =
      some (some (.fault (.addressSize (args 2)))) := by decide

/-- P1: the page. -/
theorem test_page :
    after (p1Step 3 0x8000CF10 0x0060000090000F43) (fun t => summary t.result) =
      some (some ⟨0x000090001ABC#48, 1#1, 3, 0b001#3, 1#1, 1#1, 1#1, false⟩) := by decide

/-- 2.8: the page with a clear access flag. -/
theorem test_page_access_flag :
    after (p1Step 3 0x8000CF10 0x0060000090000B43) State.result = some (some (.fault (.accessFlag (args 3)))) := by
  decide

/-- P2's big-endian block, read in the Secure space. -/
theorem test_block_big_endian :
    after (step { walking { varsAt { params1 with
                                      inputaddr := 0x987654321#64, inputsize := 36, level := 2
                                      reversedescriptors := true, lookupsecure := true } 2 0x40000000 35 with
                            secure := true, outputsize := 40 } with
      mem := Memory.empty.storeBytes 0#1 0x40002618
        [0x00#8, 0x40#8, 0x00#8, 0x01#8, 0x46#8, 0x00#8, 0x07#8, 0x21#8] }) (fun t => summary t.result) =
      some (some ⟨0x000147654321#48, 1#1, 2, 0b001#3, 1#1, 0#1, 0#1, false⟩) := by decide

/-- P1's call: level 0, the table of TTBR0_EL1, bit 47 on top (R96 to R101). -/
theorem test_call_starts_walk :
    after (step (called regs1 call1))
      (fun t => (t.vars.level, t.vars.baseaddress, t.vars.addrselecttop, t.vars.baselowerbound, t.phase)) =
      some (0, 0x80000000#48, 47, 4, .fetching) := by decide

/-- 2.2: T0SZ = 15 with the draw FAULT. -/
theorem test_call_illegal_size_faults :
    after (step (called { regs1 with tcrEl1 := { regs1.tcrEl1 with t0sz := 15 } }
      { Call.reset with draw := .fault })) State.result = some (some (.fault (.translation (args 0)))) := by decide

/-- 2.3: the upper half is refused, not faulted. -/
theorem test_call_upper_half_refused :
    step (called regs1 { call1 with vaddress := 0xAB00123456789ABC#64 }) = .refused .lostUpperHalfDerivation := by
  rfl

/-- R174: after EPD0 is set, a walk of P1's address with the registers of before is still among a translation's. -/
theorem test_translation_may_be_stale :
    (staleEntries call1 none idle (translating regsOff [regs1] call1)).map (fun t => (t.phase, t.vars.baseaddress)) =
      [(.fetching, 0x80000000#48)] := by decide

/-- R174, R90: a time whose derivation is lost, and one at which a record may have been supplied, keep a walk with
the free record of that time among those that a translation may answer. -/
theorem test_lost_derivation_keeps_its_record :
    earlierRecords call1 none idle { regs1 with s1Regime := .el2 } =
      [none, some (Config.earlierParams { regs1 with s1Regime := .el2 } call1 0)] ∧
    earlierRecords call1 (some params1) idle regs1 = [none, some (Config.earlierParams regs1 call1 0)] := ⟨rfl, rfl⟩

/-- A second record for P1's input, with another first table. -/
def params2 : WalkParams := { params1 with baseregister := 0x40000000#64 }

/-- A machine that has walked P1's input on its record and is asked to translate it on the second one. -/
def walkedBefore : State :=
  { translating regs1 [] call1 (some params2) with
    madeWalks := [{ regs := regs1, call := { call1 with iswrite := true }, params := params1 }] }

/-- R174: the call records its walk; after it a translation of the same input on another record, with no register
changed, keeps the walk on the record of before, and takes the registers it does not hold for changed. -/
theorem test_supplied_record_is_kept :
    after (step (calledWith call1 params1)) State.madeWalks =
      some [{ regs := Registers.reset, call := call1, params := params1 }] ∧
    after (enterWalk call1 (some params2) walkedBefore) (fun now =>
      ((otherWalks call1 now).filterMap (fun w => entryAt call1 now walkedBefore w.regs (some w.params))).map
        (fun t => (t.vars.params, t.call, t.vars.baseaddress))) = some [(params1, call1, 0x80000000#48)] ∧
    after (enterWalk call1 (some params2) walkedBefore) (fun now => earlierTimes now.madeWalks walkedBefore) =
      some [regs1] := by decide

/-- The placed descriptor runs first after reset: a level 2 table descriptor goes to level 3. -/
theorem test_placed_descriptor_runs :
    after (step (State.reset.withFetchWord 64 0x8000C003)) (fun t => (t.vars.level, t.vars.baseaddress)) =
      some (3, 0x8000C000#48) := by decide

/-! ## States that meet the hypotheses of the statements, clause by clause -/

theorem fits_of {n : Nat} {v : BitVec 64} (h : exceedsOutputSize n v = false) : FitsOutputSize n v :=
  (exceedsOutputSize_eq_false_iff n v).mp h

theorem not_fits_of {n : Nat} {v : BitVec 64} (h : exceedsOutputSize n v = true) : ¬ FitsOutputSize n v :=
  fun f => Bool.noConfusion (((exceedsOutputSize_eq_false_iff n v).mpr f).symm.trans h)

/-- P1's page, and the block of 2.6. -/
def page1 : LeafFields := decodeLeaf 0x0060000090000F43#64
def block1 : LeafFields := decodeLeaf 0x0000000090000F41#64

/-- P1's level 1 table. -/
def table1 : TableFields := decodeTable 0x2000000080008003#64

/-- The leaf of 2.9a: Contiguous (bit 52) set. -/
def contiguous1 : LeafFields := decodeLeaf 0x0010000008000701#64

/-- A walk of a second stage, of a regime of one privilege level, and of the Secure state. -/
def stage2Walk (v : Vars) : State := { fetched v with call := { Call.reset with secondstage := true } }
def singleWalk (v : Vars) : State := fetched { v with params := { v.params with singlepriv := true } }
def secureWalk (v : Vars) : State := fetched { v with secure := true }

/-- The head of a small grain walk at level 1, of a large and of a mid grain walk at level 2. -/
def smallHead : Vars := varsAt paramsSmall 1 0x30000000 32
def largeHead : Vars := varsAt paramsLarge 2 0x70000000 32
def midHead : Vars := varsAt paramsMid 2 0x20000000 27

/-- The widest offset, 47 bits: a mid grain record that allows blocks at level 0. -/
def wideBlock : Vars := { p1 0 with params := { params1 with firstblocklevel := 0 } }

theorem loopInv_first : (p1 0).LoopInv := by constructor <;> decide
theorem loopInv_last : (p1 3).LoopInv := by constructor <;> decide
theorem loopInv_small : smallHead.LoopInv := by constructor <;> decide
theorem loopInv_large : largeHead.LoopInv := by constructor <;> decide

/-- P1's walk at level 3 with its page in memory. -/
def atPage : State := { walking (p1 3) with mem := memoryOf (cell 1#1 0x8000CF10 0x0060000090000F43) }

/-- The same walk where two stages are in use, its page at the address that stage 2 answers (2.11). -/
def atPage2 : State :=
  { walking (p1 3) with
    config := { cfg with haveEL2 := true }
    mem := memoryOf (cell 1#1 0x18000CF10 0x0060000090000F43)
    stage2 := [answer .noFault 0x18000CF10] }

theorem inv_atPage : atPage.Inv := ⟨by decide, fun _ => loopInv_last, fun _ => rfl⟩
theorem inv_first : (walking (p1 0)).Inv := ⟨by decide, fun _ => loopInv_first, fun _ => rfl⟩

theorem witness_DecodeOfEncodeIsTheDescriptor :
    (Instr.invalid 0#63).wellFormedAt 0 = true ∧ (Instr.invalid 0#63).wellFormedAt 3 = true ∧
    (Instr.reservedL3 0#62).wellFormedAt 3 = true ∧ (Instr.block block1).wellFormedAt 0 = true ∧
    (Instr.block block1).wellFormedAt 2 = true ∧ (Instr.table table1).wellFormedAt 0 = true ∧
    (Instr.table table1).wellFormedAt 2 = true ∧ (Instr.page page1).wellFormedAt 3 = true := by decide

theorem witness_EncodeOfDecodeIsTheWord : ∃ i, decodeWord 3 0x0060000090000F43#64 = .ok i := ⟨_, rfl⟩

theorem witness_EveryWordHasExactlyOneClass : (0 : Nat) ≤ 3 ∧ (3 : Nat) ≤ 3 := by decide

theorem witness_InvalidWordsFaultAtTheirLevel :
    (∃ i, decodeWord (fetched (p1 0)).vars.level 0x2#64 = .ok i ∧ (0x2#64).getLsbD 0 = false) ∧
    (∃ i, decodeWord (fetched (p1 3)).vars.level 0x1#64 = .ok i ∧
      (0x1#64).getLsbD 1 = false ∧ (0x1#64).getLsbD 0 = true ∧ (fetched (p1 3)).vars.level = 3) :=
  ⟨⟨_, rfl, by decide⟩, ⟨_, rfl, by decide⟩⟩

/-- Bit 32 alone is too big for 32 output bits, bit 47 alone for 47. -/
theorem witness_TableAddressTooBigFaults :
    ¬ FitsOutputSize (fetched { p1 2 with outputsize := 32 }).vars.outputsize
        (encode (.table (decodeTable 0x100000003#64))) ∧
    ¬ FitsOutputSize (fetched { p1 2 with outputsize := 47 }).vars.outputsize
        (encode (.table (decodeTable 0x800000000003#64))) :=
  ⟨not_fits_of (by decide), not_fits_of (by decide)⟩

theorem witness_TableGoesDownOneLevel :
    (FitsOutputSize (fetched (p1 1)).vars.outputsize (encode (.table table1)) ∧
      (fetched (p1 1)).call.secondstage = false ∧ (fetched (p1 1)).vars.params.singlepriv = false) ∧
    (FitsOutputSize (singleWalk { p1 1 with outputsize := 32 }).vars.outputsize (encode (.table table1)) ∧
      (singleWalk { p1 1 with outputsize := 32 }).vars.params.singlepriv = true) ∧
    (FitsOutputSize (stage2Walk (p1 1)).vars.outputsize (encode (.table table1)) ∧
      (stage2Walk (p1 1)).call.secondstage = true) :=
  ⟨⟨fits_of (by decide), by decide⟩, ⟨fits_of (by decide), by decide⟩, ⟨fits_of (by decide), by decide⟩⟩

theorem witness_LeafBelowFirstBlockLevelFaults :
    (fetched (p1 1)).vars.level < (fetched (p1 1)).vars.params.firstblocklevel ∧
    (fetched (p1 0)).vars.level < (fetched (p1 0)).vars.params.firstblocklevel := by decide

/-- 2.9a, 2.9b and P5 with the fault chosen. -/
theorem witness_MisprogrammedContiguousBitFaults :
    (fetched midHead).vars.params.firstblocklevel ≤ (fetched midHead).vars.level ∧
    ¬ ContiguousAccepted (encode (.block contiguous1)) (fetched midHead) ∧
    ¬ ContiguousAccepted (encode (.block contiguous1)) (fetched smallHead) ∧
    ¬ ContiguousAccepted (encode (.block contiguous1)) (fetched largeHead) := by
  refine ⟨by decide, ?_, ?_, ?_⟩ <;> (unfold ContiguousAccepted Misprogrammed; decide)

/-- The thresholds: 29 and 30 bits for the mid grain, 33 and 34 for the others. -/
theorem witness_ContiguousTestIsTheThreeThresholds :
    (Misprogrammed { midHead with params := { paramsMid with inputsize := 29 } } ∧
      ¬ Misprogrammed { midHead with params := { paramsMid with inputsize := 30 } } ∧
      Misprogrammed smallHead ∧ ¬ Misprogrammed { smallHead with params := { paramsSmall with inputsize := 34 } } ∧
      Misprogrammed largeHead ∧ ¬ Misprogrammed { largeHead with params := { paramsLarge with inputsize := 34 } }) ∧
    (fetched midHead).vars.params.firstblocklevel ≤ (fetched midHead).vars.level ∧
    ∃ t, exec (.block block1) (fetched midHead) = .next t := by
  simp only [← contiguousCheck_iff]
  exact ⟨by decide, by decide, _, rfl⟩

theorem witness_LeafAddressTooBigFaults :
    (fetched { p1 3 with outputsize := 36 }).vars.params.firstblocklevel ≤
      (fetched { p1 3 with outputsize := 36 }).vars.level ∧
    ContiguousAccepted (encode (.page (decodeLeaf 0x1000000403#64))) (fetched { p1 3 with outputsize := 36 }) ∧
    ¬ FitsOutputSize (fetched { p1 3 with outputsize := 36 }).vars.outputsize
        (encode (.page (decodeLeaf 0x1000000403#64))) :=
  ⟨by decide, .inl (by decide), not_fits_of (by decide)⟩

theorem witness_ClearAccessFlagFaults :
    (fetched (p1 3)).vars.params.firstblocklevel ≤ (fetched (p1 3)).vars.level ∧
    ContiguousAccepted (encode (.page (decodeLeaf 0x80000003#64))) (fetched (p1 3)) ∧
    FitsOutputSize (fetched (p1 3)).vars.outputsize (encode (.page (decodeLeaf 0x80000003#64))) ∧
    (decodeLeaf 0x80000003#64).af = 0#1 :=
  ⟨by decide, .inl (by decide), fits_of (by decide), by decide⟩

/-- A leaf passes every check of a walk at the level at which `addrselectbottom` is this. -/
theorem accepted {s : State} {w : Descriptor} (h1 : s.vars.params.firstblocklevel ≤ s.vars.level)
    (h2 : w.getLsbD 52 = false) (h3 : exceedsOutputSize s.vars.outputsize w = false) (h4 : w.getLsbD 10 = true) :
    LeafAccepted w s := ⟨h1, .inl h2, fits_of h3, h4⟩

/-- Pages and blocks of both stages, of regimes of one and two privilege levels, of both security states, the
contiguous bit set and clear, and an offset of 47 bits. -/
theorem witness_AcceptedLeafReturnsTheTranslation :
    (LeafAccepted (encode (.page page1)) (fetched (p1 3)) ∧
      (fetched (p1 3)).vars.addrselectbottom = (fetched (p1 3)).vars.bottom ∧ (fetched (p1 3)).vars.bottom ≤ 47) ∧
    LeafAccepted (encode (.page page1)) (stage2Walk (p1 3)) ∧
    LeafAccepted (encode (.page page1)) (singleWalk (p1 3)) ∧
    LeafAccepted (encode (.page page1)) (secureWalk (p1 3)) ∧
    LeafAccepted (encode (.block contiguous1)) { fetched midHead with config := { cfg with contigFault := false } } ∧
    (LeafAccepted (encode (.block block1)) (fetched wideBlock) ∧
      (fetched wideBlock).vars.addrselectbottom = (fetched wideBlock).vars.bottom ∧
      (fetched wideBlock).vars.bottom = 47) :=
  ⟨⟨accepted (by decide) (by decide) (by decide) (by decide), by decide⟩,
    accepted (by decide) (by decide) (by decide) (by decide),
    accepted (by decide) (by decide) (by decide) (by decide),
    accepted (by decide) (by decide) (by decide) (by decide),
    ⟨by decide, .inr (.inl rfl), fits_of (by decide), by decide⟩,
    accepted (by decide) (by decide) (by decide) (by decide), by decide⟩

theorem witness_PageGivesNoTranslationFault : (p1 3).LoopInv ∧ (p1 3).level = 3 := ⟨loopInv_last, rfl⟩

theorem witness_DescriptorsChangeOnlyTheWalk :
    (∃ t, exec (.invalid 0#63) (fetched (p1 0)) = .next t) ∧ (∃ t, exec (.reservedL3 0#62) (fetched (p1 3)) = .next t) ∧
    (∃ t, exec (.table table1) (fetched (p1 1)) = .next t) ∧ (∃ t, exec (.block block1) (fetched (p1 2)) = .next t) ∧
    (∃ t, exec (.page page1) (fetched (p1 3)) = .next t) :=
  ⟨⟨_, rfl⟩, ⟨_, rfl⟩, ⟨_, rfl⟩, ⟨_, rfl⟩, ⟨_, rfl⟩⟩

theorem witness_TableAttributesAreSticky : ∃ t, exec (.table table1) (fetched (p1 1)) = .next t := ⟨_, rfl⟩

/-- Two table words that differ in every ignored bit, bits 13:12 of a mid grain walk among them. -/
theorem witness_IgnoredTableBitsHaveNoEffect :
    12 ≤ (fetched (p1 1)).vars.params.grainsize ∧
    (fetched (p1 1)).vars.params.grainsize ≤ (fetched (p1 1)).vars.outputsize ∧
    (decodeTable 0x07FF000080003FFF#64).pxnTable = (decodeTable 0x80000003#64).pxnTable ∧
    (decodeTable 0x07FF000080003FFF#64).xnTable = (decodeTable 0x80000003#64).xnTable ∧
    (decodeTable 0x07FF000080003FFF#64).apTable = (decodeTable 0x80000003#64).apTable ∧
    (decodeTable 0x07FF000080003FFF#64).nsTable = (decodeTable 0x80000003#64).nsTable ∧
    ∀ k, (fetched (p1 1)).vars.params.grainsize ≤ k + 12 →
      (decodeTable 0x07FF000080003FFF#64).address.getLsbD k = (decodeTable 0x80000003#64).address.getLsbD k := by
  refine ⟨by decide, by decide, by decide, by decide, by decide, by decide, ?_⟩
  intro k hk
  by_cases h : k < 36
  · revert hk; revert h; revert k; decide
  · rw [BitVec.getLsbD_of_ge _ _ (by omega), BitVec.getLsbD_of_ge _ _ (by omega)]

/-- Two page words that differ in every ignored bit, bits 13:12 of a mid grain page among them. -/
theorem witness_IgnoredLeafBitsHaveNoEffect :
    12 ≤ (fetched (p1 3)).vars.addrselectbottom ∧
    (fetched (p1 3)).vars.addrselectbottom ≤ (fetched (p1 3)).vars.outputsize ∧
    decodeLeaf 0xFF8F000080003403#64 =
      { decodeLeaf 0x80000403#64 with
        address := (decodeLeaf 0xFF8F000080003403#64).address
        ignoredMid := (decodeLeaf 0xFF8F000080003403#64).ignoredMid
        ignoredHigh := (decodeLeaf 0xFF8F000080003403#64).ignoredHigh } ∧
    ∀ k, (fetched (p1 3)).vars.addrselectbottom ≤ k + 12 →
      (decodeLeaf 0x80000403#64).address.getLsbD k = (decodeLeaf 0xFF8F000080003403#64).address.getLsbD k := by
  refine ⟨by decide, by decide, by decide, ?_⟩
  intro k hk
  by_cases h : k < 36
  · revert hk; revert h; revert k; decide
  · rw [BitVec.getLsbD_of_ge _ _ (by omega), BitVec.getLsbD_of_ge _ _ (by omega)]

theorem witness_DescriptorAddressIsAlignedInItsTable :
    (p1 0).LoopInv ∧ (p1 3).LoopInv ∧ smallHead.LoopInv ∧ largeHead.LoopInv :=
  ⟨loopInv_first, loopInv_last, loopInv_small, loopInv_large⟩

theorem witness_DescriptorAddressFitsTheOutputSize :
    (p1 0).LoopInv ∧ (p1 0).tableBits ≤ (p1 0).outputsize ∧ (p1 3).LoopInv ∧ (p1 3).tableBits ≤ (p1 3).outputsize :=
  ⟨loopInv_first, by decide, loopInv_last, by decide⟩

theorem witness_OutputAddressFitsTheOutputSize :
    (fetched (p1 3)).vars.addrselectbottom ≤ (fetched (p1 3)).vars.outputsize ∧
    (fetched (p1 3)).vars.outputsize ≤ 48 ∧ (fetched (p1 3)).result = none ∧
    ∃ t r, exec (.page page1) (fetched (p1 3)) = .next t ∧ t.result = some (.ok r) :=
  ⟨by decide, by decide, rfl, _, _, rfl, rfl⟩

theorem witness_DescriptorBytesAreOrderedByEE :
    earlierValues atPage 1#1 0x8000CF10 = [] ∧ (0 : Nat) < 8 ∧ (7 : Nat) < 8 := by decide

theorem holds_atPage : MemoryHolds atPage (descriptorAddress atPage.vars) 0x0060000090000F43#64 :=
  ⟨by decide, by decide⟩

/-- P1's page after another agent has written it twice: the read is free to answer three values. -/
def raced : State :=
  { atPage with
    superseded := [cell 1#1 0x8000CF10 0x0060000090000B43, cell 1#1 0x8000CF10 0x0060000090000F41] }

/-- A read that no write races with, one that two writes race with, and one of bytes that hold nothing. -/
theorem witness_MoveRunsTheDescriptorInMemory :
    (atPage.phase = .fetching ∧ walkersTurn atPage ∧ SkipsStage2 atPage ∧
      MemoryHolds atPage (descriptorAddress atPage.vars) 0x0060000090000F43#64 ∧
      decodeWord atPage.vars.level (orderDescriptor atPage.vars.params.reversedescriptors
        (memRead atPage (descriptorAddress atPage.vars))) = .ok (.page page1)) ∧
    (raced.phase = .fetching ∧ walkersTurn raced ∧ SkipsStage2 raced ∧
      earlierValues raced 1#1 0x8000CF10 ≠ [] ∧
      ∃ i, decodeWord raced.vars.level (orderDescriptor raced.vars.params.reversedescriptors
        (memRead raced (descriptorAddress raced.vars))) = .ok i) ∧
    (walking (p1 0)).mem.byte 1#1 0x80000000 = none ∧
    ∃ i, decodeWord (walking (p1 0)).vars.level (orderDescriptor (p1 0).params.reversedescriptors
      (memRead (walking (p1 0)) (descriptorAddress (p1 0)))) = .ok i :=
  ⟨⟨rfl, .inl rfl, .inl rfl, holds_atPage, by decide⟩,
    ⟨rfl, .inl rfl, .inl rfl, by decide, decodeWord_total _ _ (by decide)⟩, rfl, decodeWord_total _ _ (by decide)⟩

theorem needsStage2_atPage2 : ¬ SkipsStage2 atPage2 := by unfold SkipsStage2; decide

theorem witness_MoveRunsTheDescriptorBehindStage2 :
    atPage2.phase = .fetching ∧ walkersTurn atPage2 ∧ ¬ SkipsStage2 atPage2 ∧
    answer .noFault 0x18000CF10 = stage2Answer (atPage2.withVars (addressVars atPage2.vars)) ∧
    (answer .noFault 0x18000CF10).fault = .noFault ∧
    decodeWord atPage2.vars.level (orderDescriptor atPage2.vars.params.reversedescriptors
      (memRead atPage2 (answer .noFault 0x18000CF10).paddress)) = .ok (.page page1) :=
  ⟨rfl, .inl rfl, needsStage2_atPage2, by decide, rfl, by decide⟩

/-- The same with no answer supplied: the free answer, whose fault no proof can see (D9), either is none, and some
descriptor is read at its address, or is the one of `Stage2FaultIsReturnedUnchanged`. -/
theorem witness_MoveRunsTheDescriptorBehindStage2_free :
    { atPage2 with stage2 := [] }.phase = .fetching ∧ walkersTurn { atPage2 with stage2 := [] } ∧
    ¬ SkipsStage2 { atPage2 with stage2 := [] } ∧
    ∃ d, d = stage2Answer ({ atPage2 with stage2 := [] }.withVars (addressVars atPage2.vars)) ∧
      d = Config.secondStageWalk (addressVars atPage2.vars).descaddr 0#64 (.other 0) false 8 0 ∧
      (d.fault = .noFault ∨ d.fault ≠ .noFault) ∧
      ∃ i, decodeWord atPage2.vars.level (orderDescriptor atPage2.vars.params.reversedescriptors
        (memRead { atPage2 with stage2 := [] } d.paddress)) = .ok i :=
  ⟨rfl, .inl rfl, needsStage2_atPage2, _, rfl, rfl, eq_or_ne _ _, decodeWord_total _ _ (by decide)⟩

/-- 2.11, second line: stage 2 faults on the level 3 table. -/
theorem witness_Stage2FaultIsReturnedUnchanged :
    atPage2.phase = .fetching ∧ walkersTurn { atPage2 with stage2 := [answer (.stage2 7) 0] } ∧
    ¬ SkipsStage2 { atPage2 with stage2 := [answer (.stage2 7) 0] } ∧
    (stage2Answer ({ atPage2 with stage2 := [answer (.stage2 7) 0] }.withVars (addressVars atPage2.vars))).fault ≠
      .noFault :=
  ⟨rfl, .inl rfl, needsStage2_atPage2, by decide⟩

theorem witness_ReadAnswersAValueTheLocationHeld :
    ({ physicaladdress := 0x8000CF10#48, ns := 1#1 } : FullAddress).physicaladdress.toNat % 8 = 0 ∧
    NoTLBHoldsAnything atPage := by
  unfold NoTLBHoldsAnything
  decide

theorem witness_RacingReadSeesOldOrNew :
    (descriptorAddress (p1 3)).ns = (cell 1#1 0x8000CF10 0).ns ∧
    (descriptorAddress (p1 3)).physicaladdress.toNat = slotAddress (cell 1#1 0x8000CF10 0).slot ∧
    earlierValues atPage (descriptorAddress (p1 3)).ns (descriptorAddress (p1 3)).physicaladdress.toNat = [] := by
  decide

/-- A machine about to take another agent's write over P1's page. -/
def written : State := { atPage with inputs := [.memoryWrite (cell 1#1 0x8000CF10 0)] }

theorem witness_OnlyOtherAgentsWriteMemory :
    (∃ t, step written = .next t ∧ t.mem.byte 1#1 0x8000CF10 ≠ written.mem.byte 1#1 0x8000CF10) ∧
    written.inputs = [.memoryWrite (cell 1#1 0x8000CF10 0)] :=
  ⟨⟨_, rfl, by decide⟩, rfl⟩

theorem witness_WalkNeverWritesRegisters : ∃ t, step { atPage with inputs := [.registers regs1] } = .next t := ⟨_, rfl⟩

theorem witness_RegisterChangeLeavesTheWalk :
    { atPage with inputs := [.registers regs1] }.inputs = [.registers regs1] := rfl

/-- A stage 1 call of an AArch32 regime, and a stage 2 call and a translation without EL2. -/
theorem witness_FailedAssertionIsRefused :
    (called { regs1 with usingAArch32 := { regs1.usingAArch32 with el1 := true } } call1).phase = .idle ∧
    Asks (called { regs1 with usingAArch32 := { regs1.usingAArch32 with el1 := true } } call1) call1 [] ∧
    ¬ AssertionsHold (called { regs1 with usingAArch32 := { regs1.usingAArch32 with el1 := true } } call1) call1 ∧
    Asks (calledWith { call1 with secondstage := true } params1) { call1 with secondstage := true } [] ∧
    Asks (translating regs1 [] { call1 with secondstage := true }) { call1 with secondstage := true } [] ∧
    ¬ AssertionsHold (calledWith { call1 with secondstage := true } params1) { call1 with secondstage := true } :=
  ⟨rfl, .inl rfl, by unfold AssertionsHold; decide, .inr (.inl ⟨_, rfl⟩), .inr (.inr ⟨_, rfl⟩),
    by unfold AssertionsHold; decide⟩

theorem callAccepted {s : State} {c : Call} (h1 : s.phase = .idle)
    (h2 : entryAssertion s.config s.regs c.secondstage = true) (h3 : 1 ≤ s.config.paMax) (h4 : 48 ≤ c.top ∧ c.top ≤ 63) :
    CallAccepted s c := by
  refine ⟨h1, ⟨fun e => ?_, fun e => ?_⟩, h3, h4⟩
  · simpa [entryAssertion, e] using h2
  · simpa [entryAssertion, e, and_assoc] using h2

/-- PAMax 0, `AddrTop` 47 and 64, an unknown grain in a supplied and in a derived record; a stage 2 call, a call of
another regime, a call for the upper half, with `AddrTop` at both ends of its range. -/
theorem witness_LostDerivationIsRefused :
    (AssertionsHold { called regs1 call1 with config := { cfg with paMax := 0 } } call1 ∧
      Asks { called regs1 call1 with config := { cfg with paMax := 0 } } call1 []) ∧
    (AssertionsHold (called regs1 { call1 with top := 47 }) { call1 with top := 47 } ∧
      1 ≤ (called regs1 { call1 with top := 47 }).config.paMax ∧ { call1 with top := 47 }.top < 48) ∧
    (AssertionsHold (called regs1 { call1 with top := 64 }) { call1 with top := 64 } ∧
      63 < { call1 with top := 64 }.top) ∧
    (CallAccepted (calledWith call1 { params1 with grainsize := 13 }) call1 ∧
      CallAccepted (translating regs1 [] call1 (some { params1 with grainsize := 13 })) call1 ∧
      { params1 with grainsize := 13 }.wellFormed = false) ∧
    (CallAccepted { called regs1 call1 with config := { cfg with grain := { cfg.grain with mid := ⟨13, 2⟩ } } } call1 ∧
      (admittedParams { cfg with grain := { cfg.grain with mid := ⟨13, 2⟩ } } regs1 call1).wellFormed = false) ∧
    CallAccepted { called regs1 { call1 with secondstage := true } with config := { cfg with haveEL2 := true } }
      { call1 with secondstage := true } ∧
    (CallAccepted (called { regs1 with s1Regime := .el2 } { call1 with top := 48 }) { call1 with top := 48 } ∧
      (called { regs1 with s1Regime := .el2 } { call1 with top := 48 }).regs.s1Regime ≠ .el1) ∧
    (CallAccepted (called regs1 { call1 with vaddress := 0xAB00123456789ABC#64 })
        { call1 with vaddress := 0xAB00123456789ABC#64 } ∧
      (0xAB00123456789ABC#64).getLsbD call1.top = true) :=
  ⟨⟨by unfold AssertionsHold; decide, .inl rfl⟩, ⟨by unfold AssertionsHold; decide, by decide, by decide⟩,
    ⟨by unfold AssertionsHold; decide, by decide⟩,
    ⟨callAccepted rfl (by decide) (by decide) (by decide), callAccepted rfl (by decide) (by decide) (by decide),
      by decide⟩,
    ⟨callAccepted rfl (by decide) (by decide) (by decide), by decide⟩,
    callAccepted rfl (by decide) (by decide) (by decide),
    ⟨callAccepted rfl (by decide) (by decide) (by decide), by decide⟩,
    ⟨callAccepted rfl (by decide) (by decide) (by decide), by decide⟩⟩

theorem witness_AdmittedCallUsesTheDerivedParameters :
    AdmittedCall (called regs1 call1) call1 ∧ (called regs1 call1).config.grain = GrainTable.d1 ∧
    (called regs1 call1).inputs = [.call call1] :=
  ⟨⟨callAccepted rfl (by decide) (by decide) (by decide), rfl, rfl, by decide⟩, rfl, rfl⟩

theorem witness_DerivedParametersAreTheTable : cfg.grain = GrainTable.d1 := rfl

/-- T0SZ 39, 40, 16 and 15: the two ends of the legal range and the values beyond them. -/
theorem witness_InputSizeIsForcedOrKept :
    (25 : Int) ≤ 64 - (39 : Nat) ∧ (64 : Int) - (40 : Nat) < 25 ∧ (64 : Int) - (16 : Nat) ≤ 48 ∧
    (48 : Int) < 64 - (15 : Nat) ∧ Call.reset.draw = .force ∧ { Call.reset with draw := .fault }.draw = .fault := by
  decide

theorem witness_StartLevelConsumesTheInputAddress :
    (params1.grainsize = 14 ∧ params1.stride = params1.grainsize - 3 ∧ params1.inputsize = 48 ∧
      params1.level = startLevel params1.inputsize params1.grainsize params1.stride) ∧
    (paramsSmall.grainsize = 12 ∧ paramsSmall.stride = paramsSmall.grainsize - 3 ∧
      paramsSmall.level = startLevel paramsSmall.inputsize paramsSmall.grainsize paramsSmall.stride) ∧
    (paramsLarge.grainsize = 16 ∧ paramsLarge.stride = paramsLarge.grainsize - 3 ∧
      paramsLarge.level = startLevel paramsLarge.inputsize paramsLarge.grainsize paramsLarge.stride) ∧
    (2 : Int) = startLevel 25 12 9 ∧ (3 : Int) = startLevel 25 14 11 ∧ (3 : Int) = startLevel 25 16 13 := by decide

theorem witness_BaseNotFoundOrDisabledFaults :
    CallAccepted (calledWith call1 { params1 with basefound := false }) call1 ∧
    { params1 with basefound := false }.wellFormed = true ∧
    CallAccepted (calledWith call1 { params1 with disabled := true }) call1 ∧
    { params1 with disabled := true }.wellFormed = true :=
  ⟨callAccepted rfl (by decide) (by decide) (by decide), by decide,
    callAccepted rfl (by decide) (by decide) (by decide), by decide⟩

/-- 2.4: TTBR0_EL1 with bit 32 set and 32 output bits. -/
theorem witness_BaseRegisterTooBigFaults :
    CallAccepted (calledWith call1 { params1 with baseregister := 0x180000000#64, ps := 0b000#3 }) call1 ∧
    { params1 with baseregister := 0x180000000#64, ps := 0b000#3 }.wellFormed = true ∧
    ¬ FitsOutputSize (outputSize 0b000#3 cfg.paMax) 0x180000000#64 :=
  ⟨callAccepted rfl (by decide) (by decide) (by decide), by decide, not_fits_of (by decide)⟩

/-- With 48 output bits, and with 32 that suffice. -/
theorem witness_WalkBeginsAtTheFirstTable :
    CallAccepted (calledWith call1 params1) call1 ∧ params1.wellFormed = true ∧ params1.basefound = true ∧
    params1.disabled = false ∧ FitsOutputSize (outputSize params1.ps cfg.paMax) params1.baseregister ∧
    FitsOutputSize (outputSize 0b000#3 cfg.paMax) params1.baseregister :=
  ⟨callAccepted rfl (by decide) (by decide) (by decide), by decide, rfl, rfl, fits_of (by decide),
    fits_of (by decide)⟩

/-- A machine that has walked P1's input on its record and is asked to translate it on the same one. -/
def walkedAlike : State :=
  { translating regs1 [] call1 (some params1) with
    madeWalks := [{ regs := regs1, call := { call1 with iswrite := true }, params := params1 }] }

theorem nothingStale_walkedAlike : NothingStale walkedAlike := by
  have one : ∀ c p, RecordOf walkedAlike c p → p = params1 := by
    rintro c p (⟨w, hw, -, rfl⟩ | h | h | ⟨h | h, -⟩)
    · rw [List.mem_singleton.mp hw]
    all_goals simp_all [walkedAlike, translating]
  refine ⟨rfl, rfl, ?_, ?_, ?_, fun c d p q hp hq _ => (one c p hp).trans (one d q hq).symm⟩ <;>
    simp [walkedAlike, translating]

/-- Registers of the EL2 regime, whose derivation is lost. -/
def regsEL2 : Registers := { regs1 with s1Regime := .el2 }

/-- A call of both kinds; a translation of both kinds with no earlier registers, with registers of before EPD0 was
set, which may still answer, and with registers of a regime whose derivation is lost; one after a walk of the same input on
another record, and one after a walk on the same. -/
theorem witness_EntrySamplesTheProcessorState :
    ((called regs1 call1).phase = .idle ∧ (∃ t, step (called regs1 call1) = .next t) ∧
      (calledWith call1 params1).phase = .idle ∧ ∃ t, step (calledWith call1 params1) = .next t) ∧
    ((translating regs1 [] call1).phase = .idle ∧ (translating regs1 [] call1).inputs = [.translate call1 none] ∧
      NoTLBHoldsAnything (translating regs1 [] call1) ∧
      ∃ u, step { translating regs1 [] call1 with inputs := [callInput call1 none] } = .next u) ∧
    (∃ u, step { translating regsOff [regs1] call1 with inputs := [callInput call1 none] } = .next u) ∧
    (∃ u, step { translating regs1 [regsEL2] call1 with inputs := [callInput call1 none] } = .next u) ∧
    (translating regsEL2 [regs1] call1 (some params1)).inputs = [.translate call1 (some params1)] ∧
    (∃ u, step { translating regsEL2 [regs1] call1 with inputs := [callInput call1 (some params1)] } = .next u) ∧
    (∃ u, step { walkedBefore with inputs := [callInput call1 (some params2)] } = .next u) ∧
    NothingStale walkedAlike ∧ walkedAlike.inputs = [.translate call1 (some params1)] ∧
    ∃ u, step { walkedAlike with inputs := [callInput call1 (some params1)] } = .next u :=
  ⟨⟨rfl, ⟨_, rfl⟩, rfl, _, rfl⟩, ⟨rfl, rfl, ⟨rfl, rfl, rfl⟩, _, rfl⟩, ⟨_, rfl⟩, ⟨_, rfl⟩, rfl, ⟨_, rfl⟩, ⟨_, rfl⟩,
    nothingStale_walkedAlike, rfl, _, rfl⟩

theorem witness_WalkKeepsNothingFromTheLastCall :
    (called regs1 call1).phase = .idle ∧ Asks (called regs1 call1) call1 [] ∧
    Asks (calledWith call1 params1) call1 [] ∧ Asks (translating regsOff [regs1] call1) call1 [] ∧
    (called regs1 call1).inputs = [callInput call1 none] ∧ (∃ t, step (called regs1 call1) = .next t) ∧
    (calledWith call1 params1).inputs = [callInput call1 (some params1)] ∧
    ∃ t, step (calledWith call1 params1) = .next t :=
  ⟨rfl, .inl rfl, .inr (.inl ⟨_, rfl⟩), .inr (.inr ⟨_, rfl⟩), rfl, ⟨_, rfl⟩, rfl, _, rfl⟩

theorem witness_EveryStepKeepsTheInvariant :
    (atPage.Inv ∧ TLBsEmptyAndTablesStatic atPage ∧ ∃ t, step atPage = .next t) ∧
    NothingStale walkedAlike ∧ ∃ t, step { walkedAlike with inputs := [.callWith call1 params1] } = .next t := by
  have one : ∀ c p, ¬ RecordOf atPage c p := by
    rintro c p (⟨w, hw, -⟩ | h | h | ⟨h | h, -⟩) <;> simp_all [atPage, walking, idle, State.reset]
  exact ⟨⟨inv_atPage,
    ⟨⟨rfl, rfl, rfl⟩, rfl, rfl, fun _ => List.not_mem_nil, fun _ => List.not_mem_nil, fun _ h => (by cases h),
      fun c _ p _ h => absurd h (one c p)⟩, _, rfl⟩, nothingStale_walkedAlike, _, rfl⟩

theorem witness_WalkReturnsWithinFourMoves :
    (walking (p1 0)).Inv ∧ (walking (p1 0)).phase = .fetching ∧ (walking (p1 0)).inputs = [] :=
  ⟨inv_first, rfl, rfl⟩

theorem witness_WalkMakesAtMostFourReads :
    atPage.Inv ∧ atPage.phase = .fetching ∧ atPage.vars.reads = 3 ∧ ∃ t, step atPage = .next t :=
  ⟨inv_atPage, rfl, rfl, _, rfl⟩

theorem witness_SoundStateNeverStops : atPage.Inv ∧ (walking (p1 0)).Inv := ⟨inv_atPage, inv_first⟩

theorem witness_OnlyACallIsRefused :
    (∃ r, step { called regs1 call1 with config := { cfg with paMax := 0 } } = .refused r) ∧
    ∃ r, step { translating regs1 [] call1 with config := { cfg with paMax := 0 } } = .refused r :=
  ⟨⟨_, rfl⟩, _, rfl⟩

/-- A walk of one stage and one of two. -/
theorem witness_NonSecureWalkStaysNonSecure :
    (atPage.Inv ∧ atPage.phase = .fetching ∧ atPage.vars.params.lookupsecure = false ∧ SkipsStage2 atPage ∧
      walkersTurn atPage ∧ ∃ t, step atPage = .next t ∧ ∃ r, t.result = some (.ok r)) ∧
    (atPage2.Inv ∧ atPage2.phase = .fetching ∧ atPage2.vars.params.lookupsecure = false ∧ ¬ SkipsStage2 atPage2 ∧
      walkersTurn atPage2 ∧ ∃ t, step atPage2 = .next t ∧ ∃ r, t.result = some (.ok r)) :=
  ⟨⟨inv_atPage, rfl, rfl, .inl rfl, .inl rfl, _, rfl, _, rfl⟩,
    ⟨by decide, fun _ => loopInv_last, fun _ => rfl⟩, rfl, rfl, needsStage2_atPage2, .inl rfl, _, rfl, _, rfl⟩

theorem witness_NonSecureWalkIgnoresSecureMemory :
    atPage.Inv ∧ atPage.phase = .fetching ∧ atPage.vars.params.lookupsecure = false ∧ SkipsStage2 atPage ∧
    walkersTurn atPage ∧ ∃ t, step atPage = .next t :=
  ⟨inv_atPage, rfl, rfl, .inl rfl, .inl rfl, _, rfl⟩

theorem witness_CallWaitsForTheWalkInProgress :
    atPage.phase = .fetching ∧ Asks { atPage with inputs := [.call call1] } call1 [] ∧
    Asks { atPage with inputs := [.translate call1 none] } call1 [] ∧
    Asks { atPage with inputs := [.callWith call1 params1] } call1 [] :=
  ⟨rfl, .inl rfl, .inr (.inr ⟨_, rfl⟩), .inr (.inl ⟨_, rfl⟩)⟩

theorem witness_IdleWalkerDoesNothing :
    idle.phase = .idle ∧ walkersTurn idle ∧ walkersTurn { idle with inputs := [.walker] } :=
  ⟨rfl, .inl rfl, .inr ⟨[], rfl⟩⟩

theorem witness_PlacedDescriptorRunsNext :
    (∃ i, decodeTableWord 8 0x3 = some i) ∧ ∃ i, decodeTableWord 64 0x8000C003 = some i := ⟨⟨_, rfl⟩, ⟨_, rfl⟩⟩

end Sys2Proof.Tests
end

section
/-! PROOFS. The scope of a walk (spec/00_scope.md): what no step changes (R4, R27), and which calls are refused, by
name (R10, R82, R90, R157). -/

namespace Sys2Proof.Machine

/-! ## What a descriptor, a fetch and an entry leave unchanged -/

theorem descend_sameSurroundings (desc : Descriptor) (s : State) : SameSurroundings s (descend desc s) := by
  rcases descend_cases desc s with ⟨-, e⟩ | ⟨-, e⟩ <;> rw [e] <;> constructor <;> simp

theorem finishWalk_sameSurroundings (desc : Descriptor) (s : State) :
    SameSurroundings s (finishWalk desc s) := by
  rcases finishWalk_cases desc s with ⟨-, e⟩ | ⟨-, -, e⟩ | ⟨-, -, -, e⟩ | ⟨-, -, -, -, e⟩ | ⟨-, e⟩ <;>
    rw [e] <;> constructor <;> simp

/-- Every descriptor answers a next state (R150: its faults are returned records), in the same surroundings. -/
theorem exec_next_sameSurroundings (i : Instr) (s : State) : ∃ t, exec i s = .next t ∧ SameSurroundings s t := by
  rcases exec_cases i s with ⟨_, -, e⟩ | ⟨_, -, e⟩ | ⟨_, -, e⟩ | ⟨_, -, e⟩
  · exact ⟨_, e, by constructor <;> simp⟩
  · exact ⟨_, e, by constructor <;> simp⟩
  · exact ⟨_, e, descend_sameSurroundings _ s⟩
  · exact ⟨_, e, finishWalk_sameSurroundings _ s⟩

theorem sameSurroundings_of_exec {i : Instr} {s t : State} (h : exec i s = .next t) : SameSurroundings s t := by
  obtain ⟨u, e, hu⟩ := exec_next_sameSurroundings i s
  rw [e] at h
  cases h
  exact hu

theorem fetchRequest_descriptor {r : ReadRequest} {s t : State} {i : Instr}
    (h : fetchRequest r s = .descriptor i t) : t = readDescriptor r s := by
  rcases fetchRequest_cases r s with ⟨-, e⟩ | ⟨_, -, e⟩ <;> rw [e] at h <;> cases h
  rfl

theorem fetchRequest_ne_returned (r : ReadRequest) (s t : State) : fetchRequest r s ≠ .returned t := by
  rcases fetchRequest_cases r s with ⟨-, e⟩ | ⟨_, -, e⟩ <;> rw [e] <;> exact Fetched.noConfusion

theorem fetch_returned_config_regs {s t : State} (h : fetch s = .returned t) :
    t.config = s.config ∧ t.regs = s.regs := by
  rcases fetch_cases s with ⟨-, -, e⟩ | ⟨-, -, e⟩ | ⟨-, e⟩ <;> rw [e] at h
  · cases h
    simp
  · exact (fetchRequest_ne_returned _ _ _ h).elim
  · exact (fetchRequest_ne_returned _ _ _ h).elim

theorem fetch_descriptor_config_regs {s t : State} {i : Instr} (h : fetch s = .descriptor i t) :
    t.config = s.config ∧ t.regs = s.regs := by
  rcases fetch_cases s with ⟨-, -, e⟩ | ⟨-, -, e⟩ | ⟨-, e⟩ <;> rw [e] at h
  · cases h
  · simp [fetchRequest_descriptor h]
  · simp [fetchRequest_descriptor h]

theorem iterate_config_regs {s t : State} (h : iterate s = .next t) : t.config = s.config ∧ t.regs = s.regs := by
  rcases iterate_cases s with ⟨u, hu, e⟩ | ⟨i, u, hu, e⟩ | ⟨-, e⟩ <;> rw [e] at h
  · cases h
    exact fetch_returned_config_regs hu
  · obtain ⟨hconfig, hregs⟩ := fetch_descriptor_config_regs hu
    have same := sameSurroundings_of_exec h
    exact ⟨same.config.trans hconfig, same.regs.trans hregs⟩
  · cases h

@[simp] theorem startWalk_config (c : Call) (p : WalkParams) (s : State) : (startWalk c p s).config = s.config := by
  rcases startWalk_cases c p s with ⟨-, e⟩ | ⟨-, -, -, e⟩ | ⟨-, -, -, e⟩ <;> simp [e]

theorem enterWalk_config {c : Call} {supplied : Option WalkParams} {s t : State}
    (h : enterWalk c supplied s = .next t) : t.config = s.config := by
  rcases enterWalk_cases c supplied s with ⟨_, e⟩ | ⟨p, -, e, -⟩ <;> rw [e] at h <;> cases h
  exact startWalk_config c p s

/-- A translation keeps the registers of now, whichever time its walk is one of (R174). -/
theorem enterTranslation_config_regs {c : Call} {supplied : Option WalkParams} {s t : State}
    (h : enterTranslation c supplied s = .next t) : t.config = s.config ∧ t.regs = s.regs := by
  rcases enterTranslation_cases c supplied s with ⟨_, -, e⟩ | ⟨now, -, -, r, sup, u, n, hu, e, -⟩ <;>
    rw [e] at h <;> cases h
  have kept := enterWalk_config hu
  exact ⟨kept, rfl⟩

/-- Settles O35: of the moves of `step_cases` only a register change assigns the registers, and none assigns the
configuration. -/
theorem walkNeverWritesRegisters : Obligations.WalkNeverWritesRegisters := by
  intro s t h
  rcases step_cases s with ⟨w, rest, -, e⟩ | ⟨r, rest, hin, e⟩ | ⟨-, -, e⟩ | ⟨-, -, e⟩ | ⟨-, e, -⟩ |
    ⟨-, c, sup, rest, -, e⟩ | ⟨-, c, sup, rest, -, e⟩ <;> rw [e] at h
  · cases h
    exact ⟨rfl, .inl rfl⟩
  · cases h
    exact ⟨rfl, .inr ⟨rest, hin⟩⟩
  · cases h
    exact ⟨rfl, .inl rfl⟩
  · obtain ⟨hconfig, hregs⟩ := iterate_config_regs h
    exact ⟨hconfig, .inl hregs⟩
  · obtain ⟨hconfig, hregs⟩ := iterate_config_regs h
    exact ⟨hconfig, .inl hregs⟩
  · have hconfig := enterWalk_config h
    obtain ⟨hregs, -, -⟩ := enterWalk_made h
    exact ⟨hconfig, .inl hregs⟩
  · obtain ⟨hconfig, hregs⟩ := enterTranslation_config_regs h
    exact ⟨hconfig, .inl hregs⟩

/-! ## Only a call is refused -/

theorem iterate_ne_refused (s : State) (r : Refusal) : iterate s ≠ .refused r := by
  rcases iterate_cases s with ⟨_, -, e⟩ | ⟨i, u, -, e⟩ | ⟨-, e⟩
  · simp [e]
  · obtain ⟨t, ht, -⟩ := exec_next_sameSurroundings i u
    simp [e, ht]
  · simp [e]

/-- A call or a translation at the head of the inputs, with the record it supplies. -/
theorem asks_iff (s : State) (c : Call) (rest : List Input) :
    Asks s c rest ↔
      ∃ supplied, s.inputs = callInput c supplied :: rest ∨ s.inputs = .translate c supplied :: rest := by
  constructor
  · rintro (h | ⟨p, h⟩ | ⟨supplied, h⟩)
    · exact ⟨none, .inl h⟩
    · exact ⟨some p, .inl h⟩
    · exact ⟨supplied, .inr h⟩
  · rintro ⟨_ | p, h | h⟩
    · exact .inl h
    · exact .inr (.inr ⟨none, h⟩)
    · exact .inr (.inl ⟨p, h⟩)
    · exact .inr (.inr ⟨some p, h⟩)

/-- Settles O55: a move of a walk in progress is an iteration, which is never refused, and the other moves but a call
and a translation answer a next state. -/
theorem onlyACallIsRefused : Obligations.OnlyACallIsRefused := by
  intro s r h
  rcases step_cases s with ⟨w, rest, -, e⟩ | ⟨r', rest, -, e⟩ | ⟨-, -, e⟩ | ⟨-, -, e⟩ | ⟨-, e, -⟩ |
    ⟨hidle, c, sup, rest, hin, -⟩ | ⟨hidle, c, sup, rest, hin, -⟩
  · rw [e] at h
    cases h
  · rw [e] at h
    cases h
  · rw [e] at h
    cases h
  · exact absurd (e.symm.trans h) (iterate_ne_refused _ r)
  · exact absurd (e.symm.trans h) (iterate_ne_refused _ r)
  · obtain ⟨hc, -⟩ | ⟨p, hp, -⟩ := hin
    · exact ⟨hidle, c, rest, .inl hc⟩
    · exact ⟨hidle, c, rest, .inr (.inl ⟨p, hp⟩)⟩
  · exact ⟨hidle, c, rest, .inr (.inr ⟨sup, hin⟩)⟩

/-! ## The refusals of an entry, in the order of its checks -/

theorem entryAssertion_iff (s : State) (c : Call) :
    entryAssertion s.config s.regs c.secondstage = true ↔ AssertionsHold s c := by
  unfold entryAssertion AssertionsHold
  cases c.secondstage <;> simp [and_assoc]

theorem config_wellFormed_iff (cfg : Config) : cfg.wellFormed = true ↔ 1 ≤ cfg.paMax := by
  simp [Config.wellFormed]

theorem topWellFormed_iff (top : Nat) : topWellFormed top = true ↔ 48 ≤ top ∧ top ≤ 63 := by
  simp [topWellFormed]

theorem enterWalk_of_failed_assertion {c : Call} {s : State} (supplied : Option WalkParams)
    (h : ¬ AssertionsHold s c) : enterWalk c supplied s = .refused .entryAssertion := by
  rw [← entryAssertion_iff, Bool.not_eq_true] at h
  simp [enterWalk, h]

theorem enterWalk_of_paMax_zero {c : Call} {s : State} (supplied : Option WalkParams) (ha : AssertionsHold s c)
    (h : s.config.paMax = 0) : enterWalk c supplied s = .refused .paMaxTooSmall := by
  rw [← entryAssertion_iff] at ha
  simp [enterWalk, ha, Config.wellFormed, h]

theorem enterWalk_of_top_out_of_range {c : Call} {s : State} (supplied : Option WalkParams)
    (ha : AssertionsHold s c) (hp : 1 ≤ s.config.paMax) (h : c.top < 48 ∨ 63 < c.top) :
    enterWalk c supplied s = .refused .addrTopOutOfRange := by
  have ht : topWellFormed c.top = false := by
    rw [← Bool.not_eq_true, topWellFormed_iff]
    omega
  rw [← entryAssertion_iff] at ha
  rw [← config_wellFormed_iff] at hp
  simp [enterWalk, ha, hp, ht]

/-- An accepted call passes the three checks that an entry makes before it looks at the record. -/
theorem entry_checks_of_accepted {s : State} {c : Call} (h : CallAccepted s c) :
    entryAssertion s.config s.regs c.secondstage = true ∧ s.config.wellFormed = true ∧
      topWellFormed c.top = true :=
  ⟨(entryAssertion_iff s c).mpr h.assertions, (config_wellFormed_iff _).mpr h.paMax,
    (topWellFormed_iff _).mpr h.top⟩

/-- An accepted call with its record supplied is refused for that record alone. -/
theorem enterWalk_supplied {c : Call} {s : State} (p : WalkParams) (h : CallAccepted s c) :
    enterWalk c (some p) s =
      if p.wellFormed then .next (startWalk c p s) else .refused .illFormedParameters := by
  obtain ⟨ha, hp, ht⟩ := entry_checks_of_accepted h
  simp [enterWalk, ha, hp, ht]

theorem enterWalk_of_ill_formed_record {c : Call} {s : State} {p : WalkParams} (h : CallAccepted s c)
    (hw : p.wellFormed = false) : enterWalk c (some p) s = .refused .illFormedParameters := by
  simp [enterWalk_supplied p h, hw]

/-- A call whose derivation has a meaning is the call that supplies the derived record (R90, R102). -/
theorem enterWalk_derived {c : Call} {s : State} {p : WalkParams} (h : deriveParams s.config s.regs c = .ok p) :
    enterWalk c none s = enterWalk c (some p) s := by
  simp only [enterWalk, h]

/-- An accepted call whose derivation is lost is refused under the name of what is lost (R90, D2). -/
theorem enterWalk_lost {c : Call} {s : State} {r : Refusal} (h : CallAccepted s c)
    (hd : deriveParams s.config s.regs c = .error r) : enterWalk c none s = .refused r := by
  obtain ⟨ha, hp, ht⟩ := entry_checks_of_accepted h
  simp [enterWalk, ha, hp, ht, hd]

/-! ## The derivation, case by case (R90) -/

theorem deriveParams_stage2 (cfg : Config) (r : Registers) {c : Call} (h : c.secondstage = true) :
    deriveParams cfg r c = .error .lostStage2Derivation := by
  simp [deriveParams, h]

theorem deriveParams_other_regime (cfg : Config) {r : Registers} {c : Call} (h : c.secondstage = false)
    (hr : r.s1Regime ≠ .el1) : deriveParams cfg r c = .error .lostRegimeDerivation := by
  simp [deriveParams, h, hr]

theorem deriveParams_upper_half (cfg : Config) {r : Registers} {c : Call} (h : c.secondstage = false)
    (hr : r.s1Regime = .el1) (hu : c.vaddress.getLsbD c.top = true) :
    deriveParams cfg r c = .error .lostUpperHalfDerivation := by
  simp [deriveParams, h, hr, bit_eq_zero_iff, hu]

theorem deriveParams_admitted (cfg : Config) {r : Registers} {c : Call} (h : c.secondstage = false)
    (hr : r.s1Regime = .el1) (hl : c.vaddress.getLsbD c.top = false) :
    deriveParams cfg r c = .ok (admittedParams cfg r c) := by
  simp [deriveParams, h, hr, bit_eq_zero_iff, hl]

/-! ## The refusal of a step is the refusal of the entry -/

theorem step_call_of_idle {s : State} {c : Call} {supplied : Option WalkParams} {rest : List Input}
    (hidle : s.phase = .idle) (hin : s.inputs = callInput c supplied :: rest) :
    step s = enterWalk c supplied { s with inputs := rest } := by
  cases supplied <;> simp [step, hin, callInput, callArrives, hidle]

theorem step_translate_of_idle {s : State} {c : Call} {supplied : Option WalkParams} {rest : List Input}
    (hidle : s.phase = .idle) (hin : s.inputs = .translate c supplied :: rest) :
    step s = enterTranslation c supplied { s with inputs := rest } := by
  simp [step, hin, translationArrives, hidle]

/-- A call and a translation of an idle walker are both refused where the entry of now is (log entry 12). -/
theorem step_refused_of_enterWalk {s : State} {c : Call} {supplied : Option WalkParams} {rest : List Input}
    {r : Refusal} (hidle : s.phase = .idle)
    (hin : s.inputs = callInput c supplied :: rest ∨ s.inputs = .translate c supplied :: rest)
    (h : enterWalk c supplied { s with inputs := rest } = .refused r) : step s = .refused r := by
  obtain hin | hin := hin
  · rw [step_call_of_idle hidle hin, h]
  · rw [step_translate_of_idle hidle hin, enterTranslation, h]

theorem step_refused_of_asks {s : State} {c : Call} {rest : List Input} {r : Refusal} (hidle : s.phase = .idle)
    (hasks : Asks s c rest) (h : ∀ supplied, enterWalk c supplied { s with inputs := rest } = .refused r) :
    step s = .refused r := by
  obtain ⟨supplied, hin⟩ := (asks_iff s c rest).mp hasks
  exact step_refused_of_enterWalk hidle hin (h supplied)

/-- Settles O37: the assertions are the first check of every entry. -/
theorem failedAssertionIsRefused : Obligations.FailedAssertionIsRefused :=
  fun _ _ _ hidle hasks hfails =>
    step_refused_of_asks hidle hasks fun supplied => enterWalk_of_failed_assertion supplied hfails

/-- What is accepted does not depend on the inputs still to come. -/
theorem CallAccepted.withInputs {s : State} {c : Call} (h : CallAccepted s c) (inputs : List Input) :
    CallAccepted { s with inputs := inputs } c := ⟨h.idle, h.assertions, h.paMax, h.top⟩

/-- Settles O38: the checks of an entry in their order, and past them the record supplied or the derivation. -/
theorem lostDerivationIsRefused : Obligations.LostDerivationIsRefused := by
  intro s c rest hidle ha
  refine ⟨fun hasks hp => ?paMax, fun hasks hp ht => ?top, fun hacc => ?accepted⟩
  case paMax => exact step_refused_of_asks hidle hasks fun sup => enterWalk_of_paMax_zero sup ha hp
  case top => exact step_refused_of_asks hidle hasks fun sup => enterWalk_of_top_out_of_range sup ha hp ht
  case accepted =>
    have hnow : CallAccepted { s with inputs := rest } c := hacc.withInputs rest
    refine ⟨fun p hin hw => ?record, fun hin => ?noRecord⟩
    case record =>
      exact step_refused_of_enterWalk (supplied := some p) hidle hin (enterWalk_of_ill_formed_record hnow hw)
    case noRecord =>
      have refused {r : Refusal} (h : enterWalk c none { s with inputs := rest } = .refused r) :
          step s = .refused r := step_refused_of_enterWalk (supplied := none) hidle hin h
      refine ⟨fun h2 => ?_, fun h1 hr => ?_, fun h1 hr hu => ?_, fun h1 hr hl hw => ?_⟩
      · exact refused (enterWalk_lost hnow (deriveParams_stage2 _ _ h2))
      · exact refused (enterWalk_lost hnow (deriveParams_other_regime _ h1 hr))
      · exact refused (enterWalk_lost hnow (deriveParams_upper_half _ h1 hr hu))
      · have derived := enterWalk_derived (s := { s with inputs := rest }) (deriveParams_admitted _ h1 hr hl)
        exact refused (derived.trans (enterWalk_of_ill_formed_record hnow hw))

end Sys2Proof.Machine
end

section
/-! PROOFS. The state (spec/10_state.md): what a descriptor keeps of a walk (R27, R34), what an entry samples (R25, R27)
and forgets (R34), what a translation answers (R174), the moves that leave the walk alone, and the reset state. -/

namespace Sys2Proof.Machine

/-! ## What a descriptor keeps of the walk variables -/

/-- The walk variables that no descriptor assigns: the parameter record and the processor state sampled at the entry
(R25, R27, R102), and what the fetch left (R113, R114). -/
structure SameSample (v w : Vars) : Prop where
  params : w.params = v.params
  secure : w.secure = v.secure
  el : w.el = v.el
  reads : w.reads = v.reads
  descaddr2 : w.descaddr2 = v.descaddr2
  desc : w.desc = v.desc

theorem SameSample.refl (v : Vars) : SameSample v v := ⟨rfl, rfl, rfl, rfl, rfl, rfl⟩

theorem sameSample_leaveLoop (v : Vars) : SameSample v { v with blocktranslate := true } :=
  ⟨rfl, rfl, rfl, rfl, rfl, rfl⟩

theorem sameSample_leafVars (v : Vars) : SameSample v (leafVars v) := ⟨rfl, rfl, rfl, rfl, rfl, rfl⟩

theorem sameSample_unpack_leafVars (desc : Descriptor) (v : Vars) :
    SameSample v (unpackVars desc (leafVars v)) := ⟨rfl, rfl, rfl, rfl, rfl, rfl⟩

theorem sameSample_accumulateTable (secondstage : Bool) (desc : Descriptor) (v : Vars) :
    SameSample v (accumulateTable secondstage desc v) := by
  cases secondstage
  · exact ⟨rfl, rfl, rfl, rfl, rfl, rfl⟩
  · exact .refl v

theorem sameSample_descendVars (secondstage : Bool) (desc : Descriptor) (v : Vars) :
    SameSample v (descendVars secondstage desc v) := by
  obtain ⟨hparams, hsecure, hel, hreads, hdescaddr2, hdesc⟩ := sameSample_accumulateTable secondstage desc v
  exact ⟨hparams, hsecure, hel, hreads, hdescaddr2, hdesc⟩

theorem descend_sameSample (desc : Descriptor) (s : State) :
    (descend desc s).tick = s.tick ∧ SameSample s.vars (descend desc s).vars := by
  rcases descend_cases desc s with ⟨-, e⟩ | ⟨-, e⟩ <;> rw [e]
  · exact ⟨rfl, .refl _⟩
  · exact ⟨rfl, sameSample_descendVars _ _ _⟩

theorem finishWalk_sameSample (desc : Descriptor) (s : State) :
    (finishWalk desc s).tick = s.tick ∧ SameSample s.vars (finishWalk desc s).vars := by
  rcases finishWalk_cases desc s with ⟨-, e⟩ | ⟨-, -, e⟩ | ⟨-, -, -, e⟩ | ⟨-, -, -, -, e⟩ | ⟨-, e⟩ <;> rw [e]
  · exact ⟨rfl, sameSample_leaveLoop _⟩
  · exact ⟨rfl, sameSample_leafVars _⟩
  · exact ⟨rfl, sameSample_leafVars _⟩
  · exact ⟨rfl, sameSample_leafVars _⟩
  · exact ⟨rfl, sameSample_unpack_leafVars _ _⟩

theorem sameSample_of_exec {i : Instr} {s t : State} (h : exec i s = .next t) :
    t.tick = s.tick ∧ SameSample s.vars t.vars := by
  rcases exec_cases i s with ⟨_, -, e⟩ | ⟨_, -, e⟩ | ⟨_, -, e⟩ | ⟨_, -, e⟩ <;> rw [e] at h <;> cases h
  · exact ⟨rfl, .refl _⟩
  · exact ⟨rfl, .refl _⟩
  · exact descend_sameSample _ s
  · exact finishWalk_sameSample _ s

/-- Settles O19: the surroundings are those of every descriptor class, and its variables keep the sample. -/
theorem descriptorsChangeOnlyTheWalk : Obligations.DescriptorsChangeOnlyTheWalk := by
  intro i s t h
  obtain ⟨htick, hparams, hsecure, hel, hreads, hdescaddr2, hdesc⟩ := sameSample_of_exec h
  exact ⟨sameSurroundings_of_exec h, htick, hparams, hsecure, hel, hreads, hdescaddr2, hdesc⟩

/-! ## What an entry samples, and what its decision depends on -/

/-- The registers of now are sampled in the entry, whether the walk goes on or faults at level 0 (R25, R27). -/
theorem startWalk_samples (c : Call) (p : WalkParams) (s : State) :
    (startWalk c p s).vars.secure = s.regs.secure ∧ (startWalk c p s).vars.el = s.regs.pstateEl ∧
      (startWalk c p s).call = c ∧ (startWalk c p s).inputs = s.inputs := by
  rcases startWalk_cases c p s with ⟨-, e⟩ | ⟨-, -, -, e⟩ | ⟨-, -, -, e⟩ <;> rw [e] <;> exact ⟨rfl, rfl, rfl, rfl⟩

@[simp] theorem startWalk_params (c : Call) (p : WalkParams) (s : State) : (startWalk c p s).vars.params = p := by
  rcases startWalk_cases c p s with ⟨-, e⟩ | ⟨-, -, -, e⟩ | ⟨-, -, -, e⟩ <;> rw [e] <;> rfl

/-- An entry that answers starts the walk on the record it ends up with. -/
theorem eq_startWalk_of_enterWalk {c : Call} {supplied : Option WalkParams} {s t : State}
    (h : enterWalk c supplied s = .next t) : t = startWalk c t.vars.params s := by
  rcases enterWalk_cases c supplied s with ⟨_, e⟩ | ⟨p, -, e, -⟩ <;> rw [e] at h <;> cases h
  rw [startWalk_params]

theorem enterWalk_samples {c : Call} {supplied : Option WalkParams} {s t : State}
    (h : enterWalk c supplied s = .next t) :
    t.vars.secure = s.regs.secure ∧ t.vars.el = s.regs.pstateEl ∧ t.call = c ∧ t.inputs = s.inputs := by
  rw [eq_startWalk_of_enterWalk h]
  exact startWalk_samples c t.vars.params s

/-- The record of an entry that answers is the one supplied or the one derived (R90, R102). -/
theorem record_of_enterWalk {c : Call} {supplied : Option WalkParams} {s t : State}
    (h : enterWalk c supplied s = .next t) :
    supplied = some t.vars.params ∨ supplied = none ∧ deriveParams s.config s.regs c = .ok t.vars.params := by
  obtain ⟨-, -, hsup | ⟨rfl, hadm⟩⟩ := enterWalk_made h
  · exact .inl hsup
  · obtain ⟨hstage, hregime, hlower⟩ := (deriveParams_ok_iff ..).mp (deriveParams_of_enterWalk h)
    rw [hadm]
    exact .inr ⟨rfl, deriveParams_admitted _ hstage hregime ((bit_eq_zero_iff _ _).mp hlower)⟩

/-- Whether an entry answers, and on which record, is decided by the configuration and the registers alone. -/
theorem enterWalk_of_same_config_regs {c : Call} {supplied : Option WalkParams} {s s' t : State}
    (hconfig : s'.config = s.config) (hregs : s'.regs = s.regs) (h : enterWalk c supplied s = .next t) :
    enterWalk c supplied s' = .next (startWalk c t.vars.params s') := by
  have hp : ∀ p, (.next (startWalk c p s) : Host.Outcome State Fault Refusal) = .next t → t.vars.params = p := by
    intro p e
    cases e
    exact startWalk_params c p s
  unfold enterWalk at h ⊢
  rw [hconfig, hregs]
  split at h
  · cases h
  split at h
  · cases h
  split at h
  · cases h
  split at h
  · cases h
  split at h
  · rw [hp _ h]
    simp [*]
  · cases h

/-! ## A translation answers the call's own state where nothing is stale (R174) -/

/-- Where no register has changed, every walk made was made with the registers of now, and there is one record for each
input, a translation has no other walk than the one of now. -/
theorem staleEntries_eq_nil_of_one_record {c : Call} {supplied sup : Option WalkParams} {now s : State}
    (hnow : enterWalk c sup s = .next now) (hearlier : s.earlierRegisters = [])
    (hregs : ∀ w ∈ now.madeWalks, w.regs = s.regs)
    (hone : ∀ v ∈ now.madeWalks, ∀ w ∈ now.madeWalks, sameInput v.call w.call = true → v.params = w.params) :
    staleEntries c supplied now s = [] := by
  obtain ⟨hnowRegs, hmade, -⟩ := enterWalk_made hnow
  refine staleEntries_eq_nil hearlier (fun w hw hsame => ?_) ?_
  · have hhead : { regs := s.regs, call := c, params := now.vars.params } ∈ now.madeWalks := by simp [hmade]
    exact ⟨(hregs w hw).trans hnowRegs.symm, hone w hw _ hhead hsame⟩
  · refine Bool.eq_false_iff.mpr fun hdiffer => ?_
    obtain ⟨v, hv, w, hw, ⟨-, hsame⟩, hne⟩ : ∃ v ∈ now.madeWalks, ∃ w ∈ now.madeWalks,
        ((v.regs = s.regs ∧ w.regs = s.regs) ∧ sameInput v.call w.call = true) ∧ v.params ≠ w.params := by
      simpa [recordsDiffer] using hdiffer
    exact hne (hone v hv w hw hsame)

theorem staleEntries_eq_nil_of_noTLBHoldsAnything {c : Call} {supplied sup : Option WalkParams} {now s : State}
    (hnow : enterWalk c sup s = .next now) (h : NoTLBHoldsAnything s) : staleEntries c supplied now s = [] := by
  obtain ⟨-, hearlier, hnone⟩ := h
  obtain ⟨-, hmade, -⟩ := enterWalk_made hnow
  have only : ∀ w ∈ now.madeWalks, w = { regs := s.regs, call := c, params := now.vars.params } := by
    simp [hmade, hnone]
  refine staleEntries_eq_nil_of_one_record hnow hearlier (fun w hw => ?_) fun v hv w hw _ => ?_
  · rw [only w hw]
  · rw [only v hv, only w hw]

/-- The walk of now is on a record that the translation's own input tells of. -/
theorem recordOf_of_translate {s now : State} {c : Call} {supplied : Option WalkParams} {rest : List Input}
    (hin : s.inputs = .translate c supplied :: rest)
    (hnow : enterWalk c supplied { s with inputs := rest } = .next now) : RecordOf s c now.vars.params := by
  have hmem : Input.translate c supplied ∈ s.inputs := by simp [hin]
  obtain rfl | ⟨rfl, hderived⟩ := record_of_enterWalk hnow
  · exact .inr (.inr (.inl hmem))
  · exact .inr (.inr (.inr ⟨.inr hmem, hderived⟩))

theorem staleEntries_eq_nil_of_nothingStale {s now : State} {c : Call} {supplied : Option WalkParams}
    {rest : List Input} (hin : s.inputs = .translate c supplied :: rest)
    (hnow : enterWalk c supplied { s with inputs := rest } = .next now) (h : NothingStale s) :
    staleEntries c supplied now { s with inputs := rest } = [] := by
  obtain ⟨-, hmade, -⟩ := enterWalk_made hnow
  have told : ∀ w ∈ now.madeWalks, w.regs = s.regs ∧ RecordOf s w.call w.params := by
    intro w hw
    rw [hmade] at hw
    obtain rfl | hold := List.mem_cons.mp hw
    · exact ⟨rfl, recordOf_of_translate hin hnow⟩
    · exact ⟨h.registers w hold, .inl ⟨w, hold, rfl, rfl⟩⟩
  exact staleEntries_eq_nil_of_one_record hnow h.earlierRegisters (fun w hw => (told w hw).1)
    fun v hv w hw hsame => h.oneRecord v.call w.call v.params w.params (told v hv).2 (told w hw).2 hsame

/-- Settles O48: a call's step is its entry, which samples; a translation's is the entry of now or of an earlier
time, and of now alone where nothing is stale. -/
theorem entrySamplesTheProcessorState : Obligations.EntrySamplesTheProcessorState := by
  refine ⟨fun s t c p rest hidle hin h => ?call, fun s u c supplied rest hidle hin h => ?translation⟩
  case call =>
    obtain ⟨sup, hsup⟩ : ∃ sup, s.inputs = callInput c sup :: rest :=
      hin.elim (fun e => ⟨none, e⟩) fun e => ⟨some p, e⟩
    rw [step_call_of_idle hidle hsup] at h
    obtain ⟨hsecure, hel, hcall, hinputs⟩ := enterWalk_samples h
    obtain ⟨-, hmade, -⟩ := enterWalk_made h
    exact ⟨hsecure, hel, hcall, hinputs, hmade⟩
  case translation =>
    have hu : enterWalk c supplied { s with inputs := rest } = .next u :=
      (step_call_of_idle (s := { s with inputs := callInput c supplied :: rest }) hidle rfl).symm.trans h
    rw [step_translate_of_idle hidle hin]
    rcases enterTranslation_cases c supplied { s with inputs := rest } with
      ⟨_, e, -⟩ | ⟨now, e, hnone, r, sup, v, n, hv, ht, hr, hrecord⟩ <;> rw [e] at hu <;> cases hu
    refine ⟨_, ht, fun hfresh => ?exact, r, sup, v, hr, ?entry, rfl, hrecord⟩
    case exact =>
      have hnil : staleEntries c supplied u { s with inputs := rest } = [] :=
        hfresh.elim (staleEntries_eq_nil_of_noTLBHoldsAnything e) (staleEntries_eq_nil_of_nothingStale hin e)
      exact Host.Outcome.next.inj (ht.symm.trans (hnone hnil))
    case entry =>
      exact (step_call_of_idle (s := { s with regs := r, inputs := callInput c sup :: rest }) hidle rfl).trans hv

/-! ## The moves that leave the walk alone -/

/-- Settles O36: the step is `changeRegisters`, which assigns the registers and records the old ones. -/
theorem registerChangeLeavesTheWalk : Obligations.RegisterChangeLeavesTheWalk := by
  intro s r rest hin
  simp [step, hin, changeRegisters]

/-- Settles O59: where the input is the walker's or there is none, the step is `walkerMoves`, and an idle walker stays
where it is. -/
theorem idleWalkerDoesNothing : Obligations.IdleWalkerDoesNothing := by
  rintro s hidle (hnone | ⟨rest, hwalker⟩)
  · have hs : s = { s with inputs := s.inputs.tail } := by
      cases s
      simp_all
    rw [← hs]
    simp [step, hnone, walkerMoves, hidle]
  · simp [step, hwalker, walkerMoves, hidle]

/-! ## An entry keeps nothing of the last walk (R34) -/

/-- An entry assigns the arguments, the walk variables and the result before it reads any of them. -/
theorem enterWalk_forgets_last_walk (c : Call) (supplied : Option WalkParams) (s : State) (c0 : Call) (v0 : Vars)
    (r0 : Option WalkResult) :
    enterWalk c supplied { s with call := c0, vars := v0, result := r0 } = enterWalk c supplied s := rfl

theorem enterTranslation_forgets_last_walk (c : Call) (supplied : Option WalkParams) (s : State) (c0 : Call)
    (v0 : Vars) (r0 : Option WalkResult) :
    enterTranslation c supplied { s with call := c0, vars := v0, result := r0 } =
      enterTranslation c supplied s := rfl

/-- Runs of one step or more from two states with the same step are the same. -/
theorem core_run_succ_congr {s t : State} (h : step s = step t) (n : Nat) :
    Sys2Proof.core.run (n + 1) s = Sys2Proof.core.run (n + 1) t := by
  have hstep : Sys2Proof.core.step s = Sys2Proof.core.step t := h
  simp only [Host.Core.run, hstep]

/-- What a TLB may hold has no effect on the start of a walk, which adds its own record to it. -/
theorem startWalk_of_other_tlb (c : Call) (p : WalkParams) (s : State) (earlier : List Registers)
    (made : List MadeWalk) :
    startWalk c p { s with earlierRegisters := earlier, madeWalks := made } =
      { startWalk c p s with
        earlierRegisters := earlier
        madeWalks := { regs := s.regs, call := c, params := p } :: made } := by
  unfold startWalk
  split
  · rfl
  split <;> rfl

/-- Settles O49: the entry of a call or a translation forgets the last walk, so the first step of the run is the same;
and a call's entry decides on configuration and registers and starts its walk beside what a TLB holds. -/
theorem walkKeepsNothingFromTheLastCall : Obligations.WalkKeepsNothingFromTheLastCall := by
  refine ⟨fun s c0 v0 r0 n c rest hidle hasks => ?run, fun s t c supplied rest earlier made hidle hin h => ?tlb⟩
  case run =>
    refine core_run_succ_congr ?_ n
    obtain ⟨supplied, hin | hin⟩ := (asks_iff s c rest).mp hasks
    · calc step { s with call := c0, vars := v0, result := r0 }
        _ = enterWalk c supplied { s with call := c0, vars := v0, result := r0, inputs := rest } :=
          step_call_of_idle hidle hin
        _ = enterWalk c supplied { s with inputs := rest } :=
          enterWalk_forgets_last_walk c supplied { s with inputs := rest } c0 v0 r0
        _ = step s := (step_call_of_idle hidle hin).symm
    · calc step { s with call := c0, vars := v0, result := r0 }
        _ = enterTranslation c supplied { s with call := c0, vars := v0, result := r0, inputs := rest } :=
          step_translate_of_idle hidle hin
        _ = enterTranslation c supplied { s with inputs := rest } :=
          enterTranslation_forgets_last_walk c supplied { s with inputs := rest } c0 v0 r0
        _ = step s := (step_translate_of_idle hidle hin).symm
  case tlb =>
    rw [step_call_of_idle hidle hin] at h
    have started := startWalk_of_other_tlb c t.vars.params { s with inputs := rest } earlier made
    rw [← eq_startWalk_of_enterWalk h] at started
    calc step { s with earlierRegisters := earlier, madeWalks := made }
      _ = enterWalk c supplied { s with earlierRegisters := earlier, madeWalks := made, inputs := rest } :=
        step_call_of_idle hidle hin
      _ = .next (startWalk c t.vars.params
            { s with earlierRegisters := earlier, madeWalks := made, inputs := rest }) :=
        enterWalk_of_same_config_regs (s := { s with inputs := rest }) rfl rfl h
      _ = .next { t with
            earlierRegisters := earlier
            madeWalks := { regs := s.regs, call := c, params := t.vars.params } :: made } :=
        congrArg Host.Outcome.next started

/-! ## The reset state -/

/-- No walk has been made at reset, and none is asked for. -/
theorem not_recordOf_reset (c : Call) (p : WalkParams) : ¬ RecordOf State.reset c p := by
  simp [RecordOf, State.reset]

theorem reset_inv : State.reset.Inv where
  mem := empty_wf
  loop h := nomatch h
  open_ _ := rfl

theorem byte_empty (ns : Bit) (a : Nat) : Memory.empty.byte ns a = none := by
  simp [Memory.byte, Memory.space, Memory.empty, cellAt]

theorem reset_nothingStale : NothingStale State.reset where
  superseded := rfl
  earlierRegisters := rfl
  noWrite _ := List.not_mem_nil
  noRegisterChange _ := List.not_mem_nil
  registers _ h := nomatch h
  oneRecord c _ p _ h := absurd h (not_recordOf_reset c p)

/-- Settles O50: memory is empty, no walk is in progress, and there is nothing recorded and nothing to come. -/
theorem resetIsSound : Obligations.ResetIsSound :=
  ⟨reset_inv, rfl, rfl, byte_empty, ⟨rfl, rfl, rfl⟩, reset_nothingStale⟩

end Sys2Proof.Machine
end

section
/-! PROOFS. Memory (spec/20_memory.md): what a store is read back as (R43, R45, R48), what a descriptor read answers
(R44, R53, R175), where the descriptor and the output address lie (R42, R47), and the machine's invariant, which every
step keeps. -/

namespace Sys2Proof.Machine

/-! ## The bytes of a 64-bit value (R45) -/

/-- Bit `8k+j` of eight bytes put together is bit `j` of byte `k`. -/
theorem getLsbD_fromBytes (f : Nat → Byte) {k j : Nat} (hk : k < 8) (hj : j < 8) :
    (fromBytes (f 0) (f 1) (f 2) (f 3) (f 4) (f 5) (f 6) (f 7)).getLsbD (8 * k + j) = (f k).getLsbD j := by
  have past : ∀ n, 8 ≤ n → ¬ j + n < 8 := by omega
  unfold fromBytes
  simp only [BitVec.getLsbD_append]
  interval_cases k <;> simp [hj, past, Nat.add_comm, Nat.add_sub_assoc]

theorem getLsbD_byteOf (v : BitVec 64) (k : Nat) {j : Nat} (hj : j < 8) :
    (byteOf v k).getLsbD j = v.getLsbD (8 * k + j) := by
  simp [byteOf, hj]

/-- Two 64-bit values with the same bytes are the same. -/
theorem eq_of_bytes {v w : BitVec 64}
    (h : ∀ k j, k < 8 → j < 8 → v.getLsbD (8 * k + j) = w.getLsbD (8 * k + j)) : v = w := by
  refine BitVec.eq_of_getLsbD_eq fun i hi => ?_
  have split : 8 * (i / 8) + i % 8 = i := Nat.div_add_mod i 8
  simpa [split] using h (i / 8) (i % 8) (by omega) (by omega)

theorem getLsbD_bigEndianReverse (v : BitVec 64) {k j : Nat} (hk : k < 8) (hj : j < 8) :
    (bigEndianReverse v).getLsbD (8 * k + j) = v.getLsbD (8 * (7 - k) + j) :=
  (getLsbD_fromBytes (fun i => byteOf v (7 - i)) hk hj).trans (getLsbD_byteOf v (7 - k) hj)

theorem getLsbD_answer64 (m : Memory) (ns : Bit) (tick a : Nat) {k j : Nat} (hk : k < 8) (hj : j < 8) :
    (m.answer64 ns tick a).getLsbD (8 * k + j) = (m.answerByte ns tick (a + k)).getLsbD j :=
  getLsbD_fromBytes (fun i => m.answerByte ns tick (a + i)) hk hj

theorem answerByte_of_byte {m : Memory} {ns : Bit} {a : Nat} {b : Byte} (tick : Nat) (h : m.byte ns a = some b) :
    m.answerByte ns tick a = b := by
  simp [Memory.answerByte, h]

/-- Where memory lists the eight bytes of a value, that value is what a read of memory's contents answers. -/
theorem answer64_of_bytes {m : Memory} {ns : Bit} {a : Nat} {v : BitVec 64} (tick : Nat)
    (h : ∀ k, k < 8 → m.byte ns (a + k) = some (byteOf v k)) : m.answer64 ns tick a = v := by
  refine eq_of_bytes fun k j hk hj => ?_
  rw [getLsbD_answer64 m ns tick a hk hj, answerByte_of_byte tick (h k hk), getLsbD_byteOf v k hj]

/-! ## A store, read back (R43, R48) -/

theorem byte_storeBytes (bytes : List Byte) (m : Memory) (ns ns' : Bit) (a b : Nat)
    (ha : a + bytes.length ≤ 2 ^ 48) :
    (m.storeBytes ns a bytes).byte ns' b =
      if ns' = ns ∧ a ≤ b ∧ b < a + bytes.length then bytes[b - a]? else m.byte ns' b := by
  induction bytes generalizing m a with
  | nil => simp [Memory.storeBytes, show ¬ (a ≤ b ∧ b < a) by omega]
  | cons v rest ih =>
    rw [List.length_cons] at ha ⊢
    rw [Memory.storeBytes, ih _ _ (by omega), byte_storeByte _ _ _ _ _ _ (by omega)]
    by_cases hns : ns' = ns
    · rcases Nat.lt_trichotomy b a with hlt | rfl | hgt
      · simp [hns, show ¬ a ≤ b by omega, show ¬ a + 1 ≤ b by omega, show b ≠ a by omega]
      · simp [hns]
      · have shift : b - a = b - (a + 1) + 1 := by omega
        simp [hns, shift, show a ≤ b by omega, show a + 1 ≤ b by omega, show b ≠ a by omega,
          Nat.add_assoc, Nat.add_comm 1]
    · simp [hns]

theorem getElem?_toBytes (v : BitVec 64) {k : Nat} (hk : k < 8) : (toBytes v)[k]? = some (byteOf v k) := by
  interval_cases k <;> rfl

/-- Settles O31: a store is `toBytes` of the value at eight ascending addresses of one space. -/
theorem storedValueIsReadBackByteByByte : Obligations.StoredValueIsReadBackByteByByte := by
  intro m w ns a
  have eight : (toBytes w.value).length = 8 := rfl
  rw [Memory.store64, byte_storeBytes _ _ _ _ _ _ (slotAddress_lt w.slot), eight]
  refine ite_congr rfl (fun hin => ?_) fun _ => rfl
  exact getElem?_toBytes w.value (by omega)

/-- The location of a store answers the stored value. -/
theorem answer64_store64 (m : Memory) (w : SlotValue) (tick : Nat) :
    (m.store64 w).answer64 w.ns tick (slotAddress w.slot) = w.value := by
  refine answer64_of_bytes tick fun k hk => ?_
  rw [storedValueIsReadBackByteByByte m w w.ns (slotAddress w.slot + k)]
  simp [hk]

/-! ## The descriptor read (R44, R53, R175) -/

/-- Settles O27: an unraced read is memory's eight bytes, the lowest address first, and the reversal of R45 swaps byte
`k` with byte `7 - k`. -/
theorem descriptorBytesAreOrderedByEE : Obligations.DescriptorBytesAreOrderedByEE := by
  intro s p reversed k j hk hj hunraced
  rw [memRead_unraced s p hunraced]
  cases reversed
  · exact getLsbD_answer64 _ _ _ _ hk hj
  · exact (getLsbD_bigEndianReverse _ hk hj).trans (getLsbD_answer64 _ _ _ _ (by omega) hj)

theorem slotAddress_mod (slot : Slot) : slotAddress slot % 8 = 0 := Nat.mul_mod_right 8 _

/-- At an aligned address the values a read may race with are those of that very location. -/
theorem overlapsRead_aligned_iff {ns : Bit} {a : Nat} (w : SlotValue) (ha : a % 8 = 0) :
    overlapsRead ns a w = true ↔ w.ns = ns ∧ slotAddress w.slot = a := by
  have hw := slotAddress_mod w.slot
  simp only [overlapsRead, Bool.and_eq_true, beq_iff_eq, decide_eq_true_eq, and_assoc]
  refine and_congr_right fun _ => ?_
  omega

theorem mem_earlierValues {s : State} {ns : Bit} {a : Nat} {v : BitVec 64} (ha : a % 8 = 0)
    (h : v ∈ earlierValues s ns a) : ∃ e ∈ s.superseded, e.ns = ns ∧ slotAddress e.slot = a ∧ v = e.value := by
  obtain ⟨e, he, rfl⟩ := List.mem_map.mp h
  obtain ⟨hmem, hover⟩ := List.mem_filter.mp he
  obtain ⟨hns, hslot⟩ := (overlapsRead_aligned_iff e ha).mp hover
  exact ⟨e, hmem, hns, hslot, rfl⟩

/-- An aligned read answers memory's present contents or one of the earlier values (D12). -/
theorem memRead_mem (s : State) (p : FullAddress) (ha : p.physicaladdress.toNat % 8 = 0) :
    memRead s p ∈ s.mem.answer64 p.ns s.tick p.physicaladdress.toNat ::
      earlierValues s p.ns p.physicaladdress.toNat := by
  cases h : earlierValues s p.ns p.physicaladdress.toNat with
  | nil => simp [memRead_unraced s p h]
  | cons v rest =>
    simp only [memRead, h, ha, if_true]
    exact getD_mod_mem _ v rest _

theorem earlierValues_eq_nil {s : State} (h : s.superseded = []) (ns : Bit) (a : Nat) :
    earlierValues s ns a = [] := by
  simp [earlierValues, h]

/-- Settles O32: the values an aligned read chooses from are the present one and those recorded for its location, and
none is recorded where nothing was replaced. -/
theorem readAnswersAValueTheLocationHeld : Obligations.ReadAnswersAValueTheLocationHeld := by
  intro s p
  refine ⟨fun ha => ?aligned, fun hfresh => ?fresh⟩
  case aligned =>
    rcases List.mem_cons.mp (memRead_mem s p ha) with hnow | hearlier
    · exact .inl hnow
    · exact .inr (mem_earlierValues ha hearlier)
  case fresh =>
    have hnone : s.superseded = [] := hfresh.elim id fun hempty => hempty.1
    exact memRead_unraced s p (earlierValues_eq_nil hnone _ _)

/-- A write records the value it replaces as the first of the earlier values of its location. -/
theorem earlierValues_externalWrite (w : SlotValue) (s : State) :
    earlierValues (externalWrite w s) w.ns (slotAddress w.slot) =
      s.mem.answer64 w.ns s.tick (slotAddress w.slot) :: earlierValues s w.ns (slotAddress w.slot) := by
  have hover : overlapsRead w.ns (slotAddress w.slot)
      ⟨w.ns, w.slot, s.mem.answer64 w.ns s.tick (slotAddress w.slot)⟩ = true := by
    simp [overlapsRead]
  simp only [earlierValues, externalWrite_superseded, List.filter_cons_of_pos hover, List.map_cons]

/-- Settles O33: after the write the location has two values, the written one in memory and the one it replaced. -/
theorem racingReadSeesOldOrNew : Obligations.RacingReadSeesOldOrNew := by
  intro s w p hns haddr hunraced
  have hread := memRead_mem (externalWrite w s) p (by rw [haddr]; exact slotAddress_mod w.slot)
  rw [memRead_unraced s p hunraced]
  rw [hns, haddr] at hread hunraced ⊢
  rw [earlierValues_externalWrite, hunraced, externalWrite_mem, answer64_store64] at hread
  simpa using hread

/-! ## Where the addresses lie (R42, R47) -/

theorem mod_two_pow_eq_zero {w n : Nat} {v : BitVec w} (h : ∀ k, k < w → k < n → v.getLsbD k = false) :
    v.toNat % 2 ^ n = 0 := by
  refine Nat.eq_of_testBit_eq fun k => ?_
  rw [Nat.testBit_mod_two_pow, BitVec.testBit_toNat, Nat.zero_testBit]
  by_cases hw : k < w
  · by_cases hn : k < n <;> simp [hn, h k hw]
  · simp [BitVec.getLsbD_of_ge v k (by omega)]

theorem toNat_lt_two_pow {w n : Nat} {v : BitVec w} (h : ∀ k, k < w → n ≤ k → v.getLsbD k = false) :
    v.toNat < 2 ^ n := by
  refine Nat.lt_pow_two_of_testBit _ fun k hk => ?_
  rw [BitVec.testBit_toNat]
  by_cases hw : k < w
  · exact h k hw hk
  · exact BitVec.getLsbD_of_ge v k (by omega)

/-- A value that passes R99, R117 or R135 has no bit of 47:outputsize set. -/
theorem getLsbD_of_fitsOutputSize {os k : Nat} {v : BitVec 64} (h : FitsOutputSize os v) (hos : os ≤ k)
    (hk : k < 48) : v.getLsbD k = false := by
  obtain rfl | hzero := h
  · omega
  · exact hzero k hos hk

/-- A table address is aligned to its lower bound (R47). -/
theorem tableAddress_mod (v : BitVec 64) (lo : Nat) : (tableAddress v lo).toNat % 2 ^ lo = 0 :=
  mod_two_pow_eq_zero fun k hk hlo => by simp [getLsbD_tableAddress v lo k hk, show ¬ lo ≤ k by omega]

/-- A table address taken from a value that fits is below 2^outputsize (R42). -/
theorem tableAddress_lt {v : BitVec 64} {os : Nat} (lo : Nat) (h : FitsOutputSize os v) :
    (tableAddress v lo).toNat < 2 ^ os :=
  toNat_lt_two_pow fun k hk hos => by
    rw [getLsbD_tableAddress v lo k hk, getLsbD_of_fitsOutputSize h hos hk, Bool.and_false]

/-- A table index is the offset of an 8-byte entry. -/
theorem tableIndex_mod (v : BitVec 64) (top bottom : Nat) : (tableIndex v top bottom).toNat % 8 = 0 :=
  mod_two_pow_eq_zero (n := 3) fun k hk h3 => by
    simp [getLsbD_tableIndex v top bottom k hk, show ¬ 3 ≤ k by omega]

theorem tableIndex_lt (v : BitVec 64) {top bottom : Nat} (h : bottom ≤ top) :
    (tableIndex v top bottom).toNat < 2 ^ (top + 4 - bottom) :=
  toNat_lt_two_pow fun k hk hn => by
    simp [getLsbD_tableIndex v top bottom k hk, show ¬ bottom + (k - 3) ≤ top by omega]

/-- The index of a sound walk lies in its table. -/
theorem Vars.LoopInv.index_lt {v : Vars} (h : v.LoopInv) :
    (tableIndex v.params.inputaddr v.addrselecttop v.bottom).toNat < 2 ^ v.tableBits :=
  tableIndex_lt _ h.select.1

/-- The table of a sound walk holds at least two entries, so its size is a multiple of 8. -/
theorem Vars.LoopInv.eight_dvd_tableSize {v : Vars} (h : v.LoopInv) : 8 ∣ 2 ^ v.tableBits := by
  obtain ⟨hbottom, -⟩ := h.select
  exact Nat.pow_dvd_pow (m := 3) 2 (by unfold Vars.tableBits; omega)

theorem toNat_descriptorAddress (v : Vars) :
    (descriptorAddress v).physicaladdress.toNat =
      v.baseaddress.toNat ||| (tableIndex v.params.inputaddr v.addrselecttop v.bottom).toNat :=
  BitVec.toNat_or _ _

/-- Settles O24: below the table's alignment the OR of R111 is a sum, of multiples of 8. -/
theorem descriptorAddressIsAlignedInItsTable : Obligations.DescriptorAddressIsAlignedInItsTable := by
  intro v h index a
  have hindex : index.toNat < 2 ^ v.tableBits := h.index_lt
  have hentry : index.toNat % 8 = 0 := tableIndex_mod _ _ _
  have hsize := h.eight_dvd_tableSize
  obtain ⟨n, hbase⟩ := Nat.dvd_of_mod_eq_zero h.aligned
  have hsum : a = v.baseaddress.toNat + index.toNat := by
    rw [hbase, Nat.two_pow_add_eq_or_of_lt hindex n, ← hbase]
    exact toNat_descriptorAddress v
  have htable : 8 ∣ v.baseaddress.toNat := hbase ▸ hsize.mul_right n
  generalize 2 ^ v.tableBits = size at *
  exact ⟨hsum, by omega, by omega⟩

/-- Settles O25: the table's address and the index are both below 2^outputsize, and so is their OR. -/
theorem descriptorAddressFitsTheOutputSize : Obligations.DescriptorAddressFitsTheOutputSize := by
  intro v h hbits
  rw [toNat_descriptorAddress]
  have hindex := h.index_lt.trans_le (Nat.pow_le_pow_right Nat.two_pos hbits)
  exact Nat.or_lt_two_pow h.fits hindex

/-- An output address taken from a descriptor that fits is below 2^outputsize (R42, R135). -/
theorem joinOffset_lt {desc : Descriptor} {os b : Nat} (inputaddr : BitVec 64) (h : FitsOutputSize os desc)
    (hb : b ≤ os) : (joinOffset desc inputaddr b).toNat < 2 ^ os :=
  toNat_lt_two_pow fun k hk hos => by
    rw [getLsbD_joinOffset desc inputaddr b k hk, if_neg (by omega), getLsbD_of_fitsOutputSize h hos hk]

/-- A leaf descriptor returns a translation only where it passes every check. -/
theorem translation_of_finishWalk {desc : Descriptor} {s : State} {r : Translation}
    (h : (finishWalk desc s).result = some (.ok r)) :
    LeafAccepted desc s ∧ r = translationOf s.call s.tick (unpackVars desc (leafVars s.vars)) := by
  rcases finishWalk_cases desc s with ⟨-, e⟩ | ⟨-, -, e⟩ | ⟨-, -, -, e⟩ | ⟨-, -, -, -, e⟩ | ⟨haccepted, e⟩ <;>
    rw [e] at h <;> cases h
  exact ⟨haccepted, rfl⟩

/-- Settles O26: the output address is joined from the descriptor, which passed R135, and an offset below
`addrselectbottom`. -/
theorem outputAddressFitsTheOutputSize : Obligations.OutputAddressFitsTheOutputSize := by
  intro f s t i r hi hbottom _ h hresult _
  have ht : t = finishWalk (encode i) s := by
    obtain rfl | rfl := hi <;> cases h <;> rfl
  rw [ht] at hresult
  obtain ⟨haccepted, rfl⟩ := translation_of_finishWalk hresult
  exact joinOffset_lt _ haccepted.fits hbottom

/-! ## What the moves of the walker do -/

/-- A descriptor ends the walk, or it is a table descriptor that goes down one level (R117 to R120). -/
theorem exec_ends_or_descends {i : Instr} {s t : State} (h : exec i s = .next t) :
    (t.phase = .idle ∧ t.mem = s.mem) ∨
    (∃ f, i = .table f ∧ FitsOutputSize s.vars.outputsize (encode i) ∧
      t = s.withVars (descendVars s.call.secondstage (encode i) s.vars)) := by
  rcases exec_cases i s with ⟨_, -, e⟩ | ⟨_, -, e⟩ | ⟨f, hf, e⟩ | ⟨_, -, e⟩ <;> rw [e] at h <;> cases h
  · exact .inl ⟨rfl, rfl⟩
  · exact .inl ⟨rfl, rfl⟩
  · rcases descend_cases (encode i) s with ⟨-, e⟩ | ⟨hfits, e⟩ <;> rw [e]
    · exact .inl ⟨rfl, rfl⟩
    · exact .inr ⟨f, hf, hfits, rfl⟩
  · rcases finishWalk_cases (encode i) s with ⟨-, e⟩ | ⟨-, -, e⟩ | ⟨-, -, -, e⟩ | ⟨-, -, -, -, e⟩ | ⟨-, e⟩ <;>
      rw [e] <;> exact .inl ⟨rfl, rfl⟩

theorem exec_mem {i : Instr} {s t : State} (h : exec i s = .next t) : t.mem = s.mem := by
  rcases exec_ends_or_descends h with ⟨-, hmem⟩ | ⟨_, -, -, rfl⟩
  · exact hmem
  · rfl

theorem fetchRequest_decodes {r : ReadRequest} {s u : State} {i : Instr}
    (h : fetchRequest r s = .descriptor i u) : decodeWord s.vars.level u.vars.desc = .ok i := by
  rcases fetchRequest_cases r s with ⟨-, e⟩ | ⟨_, hdecode, e⟩ <;> rw [e] at h <;> cases h
  exact hdecode

/-- The state after the read of a request at the descriptor address (R111 to R114), with the answers of stage 2 that
are left. -/
def afterRead (r : ReadRequest) (answers : List AddressDescriptor) (s : State) : State :=
  readDescriptor r { s.withVars (addressVars s.vars) with stage2 := answers }

@[simp] theorem afterRead_params (r : ReadRequest) (answers : List AddressDescriptor) (s : State) :
    (afterRead r answers s).vars.params = s.vars.params := rfl

@[simp] theorem afterRead_level (r : ReadRequest) (answers : List AddressDescriptor) (s : State) :
    (afterRead r answers s).vars.level = s.vars.level := rfl

@[simp] theorem afterRead_outputsize (r : ReadRequest) (answers : List AddressDescriptor) (s : State) :
    (afterRead r answers s).vars.outputsize = s.vars.outputsize := rfl

@[simp] theorem afterRead_nsTable (r : ReadRequest) (answers : List AddressDescriptor) (s : State) :
    (afterRead r answers s).vars.nsTable = s.vars.nsTable := rfl

@[simp] theorem afterRead_addrselectbottom (r : ReadRequest) (answers : List AddressDescriptor) (s : State) :
    (afterRead r answers s).vars.addrselectbottom = s.vars.bottom := rfl

@[simp] theorem afterRead_reads (r : ReadRequest) (answers : List AddressDescriptor) (s : State) :
    (afterRead r answers s).vars.reads = s.vars.reads + 1 := rfl

/-- A fetched descriptor is what the read of some request decodes to: of the descriptor address, or of the address
that stage 2 answers. -/
theorem fetch_descriptor_eq {s u : State} {i : Instr} (h : fetch s = .descriptor i u) :
    ∃ r answers, u = afterRead r answers s ∧ decodeWord s.vars.level u.vars.desc = .ok i := by
  rcases fetch_cases s with ⟨-, -, e⟩ | ⟨-, -, e⟩ | ⟨-, e⟩ <;> rw [e] at h
  · cases h
  · have hdecode := fetchRequest_decodes h
    exact ⟨_, _, fetchRequest_descriptor h, hdecode⟩
  · have hdecode := fetchRequest_decodes h
    exact ⟨_, s.stage2, fetchRequest_descriptor h, hdecode⟩

/-- A fetch that returns has met a fault of stage 2, which reads nothing. -/
theorem fetch_returned_eq {s u : State} (h : fetch s = .returned u) :
    ∃ f answers, u = returnFault f
      { s.withVars (addressVars s.vars) with stage2 := answers, tick := s.tick + 1 } := by
  rcases fetch_cases s with ⟨-, -, e⟩ | ⟨-, -, e⟩ | ⟨-, e⟩ <;> rw [e] at h
  · cases h
    exact ⟨_, _, rfl⟩
  · exact (fetchRequest_ne_returned _ _ _ h).elim
  · exact (fetchRequest_ne_returned _ _ _ h).elim

/-- Everything an iteration that answers a next state has done: returned a fault of stage 2, or read a descriptor and
run it. -/
theorem iterate_next_cases {s t : State} (h : iterate s = .next t) :
    (∃ f answers, t = returnFault f
      { s.withVars (addressVars s.vars) with stage2 := answers, tick := s.tick + 1 }) ∨
    (∃ i r answers, decodeWord s.vars.level (afterRead r answers s).vars.desc = .ok i ∧
      exec i (afterRead r answers s) = .next t) := by
  rcases iterate_cases s with ⟨u, hu, e⟩ | ⟨i, u, hu, e⟩ | ⟨-, e⟩ <;> rw [e] at h
  · cases h
    exact .inl (fetch_returned_eq hu)
  · obtain ⟨r, answers, rfl, hdecode⟩ := fetch_descriptor_eq hu
    exact .inr ⟨i, r, answers, hdecode, h⟩
  · cases h

/-- What neither a move of the walker nor an entry changes: the configuration, memory, what other times have left, and
the inputs still to come. -/
structure SameWorld (s t : State) : Prop where
  config : t.config = s.config
  mem : t.mem = s.mem
  superseded : t.superseded = s.superseded
  earlierRegisters : t.earlierRegisters = s.earlierRegisters
  inputs : t.inputs = s.inputs

theorem iterate_sameWorld {s t : State} (h : iterate s = .next t) :
    SameWorld s t ∧ t.madeWalks = s.madeWalks := by
  rcases iterate_next_cases h with ⟨_, _, rfl⟩ | ⟨i, r, answers, -, hexec⟩
  · exact ⟨⟨rfl, rfl, rfl, rfl, rfl⟩, rfl⟩
  · have same := sameSurroundings_of_exec hexec
    have hmem := exec_mem hexec
    exact ⟨⟨same.config, hmem, same.superseded, same.earlierRegisters, same.inputs⟩, same.madeWalks⟩

theorem startWalk_sameWorld (c : Call) (p : WalkParams) (s : State) : SameWorld s (startWalk c p s) := by
  rcases startWalk_cases c p s with ⟨-, e⟩ | ⟨-, -, -, e⟩ | ⟨-, -, -, e⟩ <;> rw [e] <;>
    exact ⟨rfl, rfl, rfl, rfl, rfl⟩

theorem enterWalk_sameWorld {c : Call} {supplied : Option WalkParams} {s t : State}
    (h : enterWalk c supplied s = .next t) : SameWorld s t := by
  rw [eq_startWalk_of_enterWalk h]
  exact startWalk_sameWorld _ _ _

theorem enterTranslation_sameWorld {c : Call} {supplied : Option WalkParams} {s t : State}
    (h : enterTranslation c supplied s = .next t) : SameWorld s t := by
  rcases enterTranslation_cases c supplied s with ⟨_, -, e⟩ | ⟨now, -, -, r, sup, u, n, hu, e, -⟩ <;>
    rw [e] at h <;> cases h
  obtain ⟨hconfig, hmem, hsuperseded, hearlier, hinputs⟩ := enterWalk_sameWorld hu
  exact ⟨hconfig, hmem, hsuperseded, hearlier, hinputs⟩

/-- The steps that answer a next state, by who moves: another agent, the processor, an idle walker, a walk in progress,
a call or a translation at an idle walker. -/
theorem step_next_cases {s t : State} (h : step s = .next t) :
    (∃ w rest, s.inputs = .memoryWrite w :: rest ∧ t = externalWrite w { s with inputs := rest }) ∨
    (∃ r rest, s.inputs = .registers r :: rest ∧ t = changeRegisters r { s with inputs := rest }) ∨
    (s.phase = .idle ∧ t = { s with inputs := s.inputs.tail }) ∨
    (s.phase = .fetching ∧
      ∃ inputs, inputs ⊆ s.inputs ∧ iterate { s with inputs := inputs } = .next t) ∨
    (s.phase = .idle ∧ ∃ c sup rest, s.inputs = callInput c sup :: rest ∧
      enterWalk c sup { s with inputs := rest } = .next t) ∨
    (s.phase = .idle ∧ ∃ c sup rest, s.inputs = .translate c sup :: rest ∧
      enterTranslation c sup { s with inputs := rest } = .next t) := by
  rcases step_cases s with ⟨w, rest, hin, e⟩ | ⟨r, rest, hin, e⟩ | ⟨hidle, -, e⟩ | ⟨hfetching, -, e⟩ |
    ⟨hfetching, e, -⟩ | ⟨hidle, c, sup, rest, hin, e⟩ | ⟨hidle, c, sup, rest, hin, e⟩ <;> rw [e] at h
  · cases h
    exact .inl ⟨w, rest, hin, rfl⟩
  · cases h
    exact .inr (.inl ⟨r, rest, hin, rfl⟩)
  · cases h
    exact .inr (.inr (.inl ⟨hidle, rfl⟩))
  · exact .inr (.inr (.inr (.inl ⟨hfetching, _, List.tail_subset _, h⟩)))
  · exact .inr (.inr (.inr (.inl ⟨hfetching, s.inputs, List.Subset.refl _, h⟩)))
  · have hcall : s.inputs = callInput c sup :: rest := by
      obtain ⟨hin, rfl⟩ | ⟨p, hin, rfl⟩ := hin <;> exact hin
    exact .inr (.inr (.inr (.inr (.inl ⟨hidle, c, sup, rest, hcall, h⟩))))
  · exact .inr (.inr (.inr (.inr (.inr ⟨hidle, c, sup, rest, hin, h⟩))))

/-- A step without another agent's write leaves memory as it is (R46). -/
theorem step_mem {s t : State} (h : step s = .next t) :
    t.mem = s.mem ∨
      ∃ w rest, s.inputs = .memoryWrite w :: rest ∧ t = externalWrite w { s with inputs := rest } := by
  rcases step_next_cases h with hwrite | ⟨_, _, -, rfl⟩ | ⟨-, rfl⟩ | ⟨-, _, -, hiter⟩ | ⟨-, _, _, _, -, henter⟩ |
    ⟨-, _, _, _, -, henter⟩
  · exact .inr hwrite
  · exact .inl rfl
  · exact .inl rfl
  · exact .inl (iterate_sameWorld hiter).1.mem
  · exact .inl (enterWalk_sameWorld henter).mem
  · exact .inl (enterTranslation_sameWorld henter).mem

/-- Settles O34: of the moves of a step only a write stores, and what it stores reads back as `toBytes` of its value. -/
theorem onlyOtherAgentsWriteMemory : Obligations.OnlyOtherAgentsWriteMemory := by
  refine ⟨fun s t ns a h hchanged => ?changed, fun s w rest hin => ?performed⟩
  case changed =>
    rcases step_mem h with hsame | ⟨w, rest, hin, rfl⟩
    · exact absurd (by rw [hsame]) hchanged
    · have hbyte := storedValueIsReadBackByteByByte s.mem w ns a
      rw [externalWrite_mem] at hchanged ⊢
      by_cases hstored : ns = w.ns ∧ slotAddress w.slot ≤ a ∧ a < slotAddress w.slot + 8
      · rw [if_pos hstored] at hbyte
        obtain ⟨hns, hlo, hhi⟩ := hstored
        exact ⟨w, rest, hin, hns, hlo, hhi, hbyte⟩
      · rw [if_neg hstored] at hbyte
        exact absurd hbyte hchanged
  case performed =>
    have hstep : step s = .next (externalWrite w { s with inputs := rest }) := by simp [step, hin]
    exact ⟨_, hstep, rfl, storedValueIsReadBackByteByByte s.mem w, rfl, rfl, rfl, rfl, rfl, rfl, rfl, rfl, rfl, rfl,
      rfl⟩

/-! ## The invariant of a walk -/

/-- Going down one level frees the `stride` address bits below the ones that indexed the table (R111). -/
theorem selectBottom_succ {level : Nat} (stride grainsize : Nat) (h : level < 3) :
    selectBottom level stride grainsize = selectBottom (level + 1) stride grainsize + stride := by
  have levels : 3 - level = 3 - (level + 1) + 1 := by omega
  unfold selectBottom
  rw [levels, Nat.add_mul, Nat.one_mul]
  omega

/-- What a table descriptor makes of the walk variables, but for the four accumulators of R119. -/
theorem descendVars_fields (secondstage : Bool) (desc : Descriptor) (v : Vars) :
    (descendVars secondstage desc v).params = v.params ∧
      (descendVars secondstage desc v).level = v.level + 1 ∧
      (descendVars secondstage desc v).reads = v.reads ∧
      (descendVars secondstage desc v).outputsize = v.outputsize ∧
      (descendVars secondstage desc v).addrselecttop = v.addrselectbottom - 1 ∧
      (descendVars secondstage desc v).baseaddress = tableAddress desc v.params.grainsize := by
  cases secondstage <;> exact ⟨rfl, rfl, rfl, rfl, rfl, rfl⟩

/-- `ns_table` is sticky (R119). -/
theorem descendVars_nsTable {v : Vars} (secondstage : Bool) (desc : Descriptor) (h : v.nsTable = 1#1) :
    (descendVars secondstage desc v).nsTable = 1#1 := by
  cases secondstage
  · have sticky : ∀ b : Bit, 1#1 ||| b = 1#1 := by decide
    exact (congrArg (· ||| bit desc 63) h).trans (sticky _)
  · exact h

/-- The class TABLE exists above level 3 only (R61). -/
theorem level_lt_of_decodeWord_table {level : Nat} {w : Descriptor} {f : TableFields}
    (h : decodeWord level w = .ok (.table f)) : level < 3 := by
  unfold decodeWord at h
  split at h
  · cases h
  split at h
  · cases h
  split at h
  · split at h <;> cases h
  split at h
  · cases h
  · omega

/-- A table descriptor, read in a sound walk above level 3, leaves a sound walk one level down. -/
theorem loopInv_descendVars {s : State} {desc : Descriptor} (r : ReadRequest) (answers : List AddressDescriptor)
    (secondstage : Bool) (h : s.vars.LoopInv) (hlevel : s.vars.level < 3)
    (hfits : FitsOutputSize s.vars.outputsize desc) :
    (descendVars secondstage desc (afterRead r answers s).vars).LoopInv := by
  obtain ⟨hparams, hnext, hreads, hos, htop, hbase⟩ :=
    descendVars_fields secondstage desc (afterRead r answers s).vars
  have hns := descendVars_nsTable (v := (afterRead r answers s).vars) secondstage desc
  generalize descendVars secondstage desc (afterRead r answers s).vars = v at *
  simp only [afterRead_params, afterRead_level, afterRead_reads, afterRead_outputsize, afterRead_addrselectbottom,
    afterRead_nsTable] at hparams hnext hreads hos htop hbase hns
  have hbottom : s.vars.bottom = v.bottom + s.vars.params.stride := by
    simp only [Vars.bottom, hnext, hparams]
    exact selectBottom_succ _ _ hlevel
  obtain ⟨hstart, hfrom, -⟩ := h.levels
  obtain ⟨hselect, htop48⟩ := h.select
  have hgrain := h.grain
  have hstride := h.stride
  have hcount := h.reads
  have hbits : v.tableBits = s.vars.params.grainsize := by
    unfold Vars.tableBits
    omega
  exact
    { grain := hparams ▸ hgrain
      stride := hparams ▸ hstride
      firstblock := hparams ▸ h.firstblock
      based := hparams ▸ h.based
      inputsize := hparams ▸ h.inputsize
      levels := by rw [hparams]; omega
      reads := by rw [hparams]; omega
      select := by omega
      later := fun _ => by rw [hparams]; omega
      aligned := by rw [hbase, hbits]; exact tableAddress_mod _ _
      outputsize := hos ▸ h.outputsize
      fits := by rw [hbase, hos]; exact tableAddress_lt _ hfits
      nonsecure := fun hlookup => hns (h.nonsecure (hparams ▸ hlookup)) }

theorem outputSize_le (ps : BitVec 3) (paMax : Nat) : outputSize ps paMax ≤ 48 := by
  have hps : psOutputsize ps ≤ 48 := by revert ps; decide
  unfold outputSize
  split <;> omega

/-- What R102 asks of the record of a walk that gets past R97. -/
theorem wellFormed_based {p : WalkParams} (h : p.wellFormed = true) (hfound : p.basefound = true)
    (henabled : p.disabled = false) :
    (p.grainsize = 12 ∨ p.grainsize = 14 ∨ p.grainsize = 16) ∧ p.stride = p.grainsize - 3 ∧
      p.firstblocklevel ≤ 3 ∧ (25 ≤ p.inputsize ∧ p.inputsize ≤ 48) ∧ (0 ≤ p.level ∧ p.level ≤ 3) ∧
      selectBottom p.level.toNat p.stride p.grainsize < p.inputsize.toNat := by
  simpa [WalkParams.wellFormed, hfound, henabled, and_assoc, or_assoc] using h

/-- The head of the loop, on a well-formed record whose base register fits, is sound (R96 to R101). -/
theorem loopInv_loopVars {cfg : Config} {p : WalkParams} {regs : Registers} (hwf : p.wellFormed = true)
    (hfound : p.basefound = true) (henabled : p.disabled = false)
    (hfits : FitsOutputSize (outputSize p.ps cfg.paMax) p.baseregister) : (loopVars cfg p regs).LoopInv := by
  obtain ⟨hgrain, hstride, hfirst, hsize, hlevel, hbottom⟩ := wellFormed_based hwf hfound henabled
  have hselect : (loopVars cfg p regs).bottom = selectBottom p.level.toNat p.stride p.grainsize := rfl
  have htop : (loopVars cfg p regs).addrselecttop = p.inputsize.toNat - 1 := rfl
  have hlevels : (loopVars cfg p regs).level = p.level.toNat := rfl
  have hns : (loopVars cfg p regs).nsTable = if p.lookupsecure then 0#1 else 1#1 := rfl
  have hbits : (loopVars cfg p regs).tableBits = baseLowerBound p := by
    unfold Vars.tableBits baseLowerBound
    omega
  exact
    { grain := hgrain
      stride := hstride
      firstblock := hfirst
      based := ⟨hfound, henabled⟩
      inputsize := hsize
      levels := ⟨hlevel.1, Nat.le_refl _, by omega⟩
      reads := Nat.zero_add _
      select := by omega
      later := fun hlater => absurd hlater (Nat.lt_irrefl _)
      aligned := by rw [hbits]; exact tableAddress_mod _ _
      outputsize := outputSize_le _ _
      fits := tableAddress_lt _ hfits
      nonsecure := fun hlookup => hns.trans (if_neg (Bool.eq_false_iff.mp hlookup)) }

/-! ## Every step keeps the invariant -/

/-- The invariant speaks of memory, the phase, the walk variables and the result only. -/
theorem State.Inv.congr {s t : State} (h : s.Inv) (hmem : t.mem = s.mem) (hphase : t.phase = s.phase)
    (hvars : t.vars = s.vars) (hresult : t.result = s.result) : t.Inv where
  mem := hmem ▸ h.mem
  loop hfetching := hvars ▸ h.loop (hphase ▸ hfetching)
  open_ hfetching := hresult ▸ h.open_ (hphase ▸ hfetching)

/-- Between walks the invariant is memory's canonical form. -/
theorem inv_of_idle {s : State} (hmem : s.mem.wf = true) (hidle : s.phase = .idle) : s.Inv where
  mem := hmem
  loop hfetching := by simp [hidle] at hfetching
  open_ hfetching := by simp [hidle] at hfetching

theorem externalWrite_inv {s : State} (w : SlotValue) (h : s.Inv) : (externalWrite w s).Inv :=
  { h with mem := store64_wf s.mem w h.mem }

/-- An iteration of a sound walk ends it, or goes down to a sound walk. -/
theorem iterate_inv {s t : State} (h : s.Inv) (hfetching : s.phase = .fetching) (hiter : iterate s = .next t) :
    t.Inv := by
  have hmem : t.mem.wf = true := by rw [(iterate_sameWorld hiter).1.mem]; exact h.mem
  rcases iterate_next_cases hiter with ⟨f, answers, rfl⟩ | ⟨i, r, answers, hdecode, hexec⟩
  · exact inv_of_idle hmem rfl
  · rcases exec_ends_or_descends hexec with ⟨hidle, -⟩ | ⟨f, rfl, hfits, rfl⟩
    · exact inv_of_idle hmem hidle
    · have hlevel := level_lt_of_decodeWord_table hdecode
      exact
        { mem := hmem
          loop := fun _ => loopInv_descendVars r answers _ (h.loop hfetching) hlevel hfits
          open_ := fun _ => h.open_ hfetching }

/-- The start of a walk on a well-formed record is sound, whether it faults at level 0 or enters the loop. -/
theorem startWalk_inv {c : Call} {p : WalkParams} {s : State} (hmem : s.mem.wf = true) (hwf : p.wellFormed = true) :
    (startWalk c p s).Inv := by
  have hmem' : (startWalk c p s).mem.wf = true := by rw [(startWalk_sameWorld c p s).mem]; exact hmem
  rcases startWalk_cases c p s with ⟨-, e⟩ | ⟨-, -, -, e⟩ | ⟨hfound, henabled, hfits, e⟩ <;> rw [e] at hmem' ⊢
  · exact inv_of_idle hmem' rfl
  · exact inv_of_idle hmem' rfl
  · exact
      { mem := hmem'
        loop := fun _ => loopInv_loopVars hwf hfound henabled hfits
        open_ := fun _ => rfl }

theorem enterWalk_inv {c : Call} {supplied : Option WalkParams} {s t : State} (hmem : s.mem.wf = true)
    (h : enterWalk c supplied s = .next t) : t.Inv := by
  rcases enterWalk_cases c supplied s with ⟨_, e⟩ | ⟨p, hwf, e, -⟩ <;> rw [e] at h <;> cases h
  exact startWalk_inv hmem hwf

/-- A translation answers an entry, of now or of an earlier time (R174). -/
theorem enterTranslation_inv {c : Call} {supplied : Option WalkParams} {s t : State} (hmem : s.mem.wf = true)
    (h : enterTranslation c supplied s = .next t) : t.Inv := by
  rcases enterTranslation_cases c supplied s with ⟨_, -, e⟩ | ⟨now, -, -, r, sup, u, n, hu, e, -⟩ <;>
    rw [e] at h <;> cases h
  have hinv := enterWalk_inv (s := { s with regs := r }) hmem hu
  exact hinv.congr rfl rfl rfl rfl

theorem step_inv {s t : State} (h : s.Inv) (hstep : step s = .next t) : t.Inv := by
  rcases step_next_cases hstep with ⟨w, rest, -, rfl⟩ | ⟨r, rest, -, rfl⟩ | ⟨-, rfl⟩ |
    ⟨hfetching, inputs, -, hiter⟩ | ⟨-, c, sup, rest, -, henter⟩ | ⟨-, c, sup, rest, -, henter⟩
  · exact externalWrite_inv w (h.congr rfl rfl rfl rfl)
  · exact h.congr rfl rfl rfl rfl
  · exact h.congr rfl rfl rfl rfl
  · exact iterate_inv (s := { s with inputs := inputs }) (h.congr rfl rfl rfl rfl) hfetching hiter
  · exact enterWalk_inv (s := { s with inputs := rest }) h.mem henter
  · exact enterTranslation_inv (s := { s with inputs := rest }) h.mem henter

/-! ## Nothing comes to be stale (R174) -/

/-- What a state with nothing stale leads to: the same configuration, registers and earlier values, no new input, and
walks made on records that its own inputs and walks tell of. -/
theorem NothingStale.of_told {s t : State} (h : NothingStale s) (hsuperseded : t.superseded = s.superseded)
    (hearlier : t.earlierRegisters = s.earlierRegisters) (hconfig : t.config = s.config) (hregs : t.regs = s.regs)
    (hinputs : t.inputs ⊆ s.inputs)
    (hmade : ∀ w ∈ t.madeWalks, w.regs = s.regs ∧ RecordOf s w.call w.params) : NothingStale t := by
  have told : ∀ c p, RecordOf t c p → RecordOf s c p := by
    rintro c p (⟨w, hw, rfl, rfl⟩ | hin | hin | ⟨hin, hderived⟩)
    · exact (hmade w hw).2
    · exact .inr (.inl (hinputs hin))
    · exact .inr (.inr (.inl (hinputs hin)))
    · rw [hconfig, hregs] at hderived
      exact .inr (.inr (.inr ⟨hin.imp (@hinputs _) (@hinputs _), hderived⟩))
  exact
    { superseded := hsuperseded.trans h.superseded
      earlierRegisters := hearlier.trans h.earlierRegisters
      noWrite := fun w hin => h.noWrite w (hinputs hin)
      noRegisterChange := fun r hin => h.noRegisterChange r (hinputs hin)
      registers := fun w hw => (hmade w hw).1.trans hregs.symm
      oneRecord := fun c d p q hp hq => h.oneRecord c d p q (told c p hp) (told d q hq) }

/-- The walks made so far tell of their own records. -/
theorem NothingStale.told {s : State} (h : NothingStale s) :
    ∀ w ∈ s.madeWalks, w.regs = s.regs ∧ RecordOf s w.call w.params :=
  fun w hw => ⟨h.registers w hw, .inl ⟨w, hw, rfl, rfl⟩⟩

/-- The walk that a call enters is on a record that the call's own input tells of. -/
theorem recordOf_of_call {s now : State} {c : Call} {supplied : Option WalkParams} {rest : List Input}
    (hin : s.inputs = callInput c supplied :: rest)
    (hnow : enterWalk c supplied { s with inputs := rest } = .next now) : RecordOf s c now.vars.params := by
  have hmem : callInput c supplied ∈ s.inputs := by simp [hin]
  obtain rfl | ⟨rfl, hderived⟩ := record_of_enterWalk hnow
  · exact .inr (.inl hmem)
  · exact .inr (.inr (.inr ⟨.inl hmem, hderived⟩))

/-- The walks made once a walk is entered on a record that the state tells of. -/
theorem NothingStale.told_of_entry {s now : State} {c : Call} {supplied : Option WalkParams} {rest : List Input}
    (h : NothingStale s) (hnow : enterWalk c supplied { s with inputs := rest } = .next now)
    (hrecord : RecordOf s c now.vars.params) :
    ∀ w ∈ now.madeWalks, w.regs = s.regs ∧ RecordOf s w.call w.params := by
  obtain ⟨-, hmade, -⟩ := enterWalk_made hnow
  intro w hw
  rw [hmade] at hw
  obtain rfl | hold := List.mem_cons.mp hw
  · exact ⟨rfl, hrecord⟩
  · exact h.told w hold

/-- A translation records the walk of now, whichever it answers. -/
theorem enterTranslation_made {c : Call} {supplied : Option WalkParams} {s t : State}
    (h : enterTranslation c supplied s = .next t) :
    ∃ now, enterWalk c supplied s = .next now ∧ t.madeWalks = now.madeWalks := by
  rcases enterTranslation_cases c supplied s with ⟨_, -, e⟩ | ⟨now, hnow, -, _, _, _, _, -, e, -⟩ <;>
    rw [e] at h <;> cases h
  exact ⟨now, hnow, rfl⟩

theorem step_nothingStale {s t : State} (h : NothingStale s) (hstep : step s = .next t) : NothingStale t := by
  rcases step_next_cases hstep with ⟨w, rest, hin, -⟩ | ⟨r, rest, hin, -⟩ | ⟨-, rfl⟩ |
    ⟨-, inputs, hsub, hiter⟩ | ⟨-, c, sup, rest, hin, henter⟩ | ⟨-, c, sup, rest, hin, henter⟩
  · exact absurd (by simp [hin]) (h.noWrite w)
  · exact absurd (by simp [hin]) (h.noRegisterChange r)
  · exact h.of_told rfl rfl rfl rfl (List.tail_subset _) h.told
  · obtain ⟨world, hmade⟩ := iterate_sameWorld hiter
    obtain ⟨-, hregs⟩ := iterate_config_regs hiter
    exact h.of_told world.superseded world.earlierRegisters world.config hregs (world.inputs ▸ hsub)
      (hmade ▸ h.told)
  · have world := enterWalk_sameWorld henter
    obtain ⟨hregs, -, -⟩ := enterWalk_made henter
    have told := h.told_of_entry henter (recordOf_of_call hin henter)
    exact h.of_told world.superseded world.earlierRegisters world.config hregs
      (by rw [world.inputs, hin]; exact List.subset_cons_self _ _) told
  · have world := enterTranslation_sameWorld henter
    obtain ⟨-, hregs⟩ := enterTranslation_config_regs henter
    obtain ⟨now, hnow, hmade⟩ := enterTranslation_made henter
    have told := h.told_of_entry hnow (recordOf_of_translate hin hnow)
    exact h.of_told world.superseded world.earlierRegisters world.config hregs
      (by rw [world.inputs, hin]; exact List.subset_cons_self _ _) (hmade ▸ told)

/-- Settles O51: each move of `step_next_cases` keeps the invariant, and none but a write or a register change, which
the premise excludes, makes anything stale. -/
theorem everyStepKeepsTheInvariant : Obligations.EveryStepKeepsTheInvariant :=
  fun _ _ hstep => ⟨fun hinv => step_inv hinv hstep,
    fun hfresh => step_nothingStale (hfresh.elim TLBsEmptyAndTablesStatic.static id) hstep⟩

/-! ## The number of reads (R44, R121) -/

/-- An iteration makes one read, or none where stage 2 faults. -/
theorem iterate_reads_le {s t : State} (h : iterate s = .next t) : t.vars.reads ≤ s.vars.reads + 1 := by
  rcases iterate_next_cases h with ⟨_, _, rfl⟩ | ⟨i, r, answers, -, hexec⟩
  · exact Nat.le_succ _
  · obtain ⟨-, sample⟩ := sameSample_of_exec hexec
    exact sample.reads.le

theorem step_reads_le {s t : State} (hfetching : s.phase = .fetching) (h : step s = .next t) :
    t.vars.reads ≤ s.vars.reads + 1 := by
  rcases step_next_cases h with ⟨_, _, -, rfl⟩ | ⟨_, _, -, rfl⟩ | ⟨hidle, -⟩ | ⟨-, inputs, -, hiter⟩ |
    ⟨hidle, -⟩ | ⟨hidle, -⟩
  · exact Nat.le_succ _
  · exact Nat.le_succ _
  · simp [hidle] at hfetching
  · exact iterate_reads_le (s := { s with inputs := inputs }) hiter
  · simp [hidle] at hfetching
  · simp [hidle] at hfetching

/-- A sound walk has made one read for each level above its own, so at most three (R121). -/
theorem Vars.LoopInv.reads_le {v : Vars} (h : v.LoopInv) : v.reads ≤ 3 := by
  have hreads := h.reads
  have hlevels := h.levels
  omega

/-- Settles O53: a step adds at most one read, and a walk that goes on is sound again. -/
theorem walkMakesAtMostFourReads : Obligations.WalkMakesAtMostFourReads := by
  intro s t hinv hfetching hstep
  have hnow := (hinv.loop hfetching).reads_le
  have hnext := step_reads_le hfetching hstep
  exact ⟨hnow, by omega, fun hon => ((step_inv hinv hstep).loop hon).reads_le⟩

/-! ## The walker's move (R110 to R116) -/

theorem step_of_walkersTurn {s : State} (hfetching : s.phase = .fetching) (hturn : walkersTurn s) :
    step s = iterate { s with inputs := s.inputs.tail } := by
  obtain hnone | ⟨rest, hwalker⟩ := hturn
  · have hs : { s with inputs := s.inputs.tail } = s := by
      cases s
      simp_all
    rw [hs]
    simp [step, walkerMoves, hfetching, hnone]
  · simp [step, walkerMoves, hfetching, hwalker]

theorem fetchRequest_of_decodeWord {r : ReadRequest} {s : State} {i : Instr}
    (h : decodeWord s.vars.level (readDescriptor r s).vars.desc = .ok i) :
    fetchRequest r s = .descriptor i (readDescriptor r s) := by
  simp only [fetchRequest, readDescriptor_level, h]

theorem descaddrNeedsStage2_of_skips {s : State} (h : SkipsStage2 s) : descaddrNeedsStage2 s = false := by
  obtain h | h | h | h := h <;> simp [descaddrNeedsStage2, h]

/-- The state in which a walk that skips stage 2 runs the descriptor it has read: the turn is used up, and the read is
of the descriptor address. -/
def moveRead (s : State) : State :=
  afterRead (readRequest s.vars.descaddr.memattrs (descriptorAddress s.vars) s.call) s.stage2
    { s with inputs := s.inputs.tail }

/-- Where stage 2 is skipped a move is the effect of the descriptor at the descriptor address. -/
theorem step_eq_exec_moveRead {s : State} {i : Instr} (hfetching : s.phase = .fetching) (hturn : walkersTurn s)
    (hskips : SkipsStage2 s) (hdecode : decodeWord s.vars.level (moveRead s).vars.desc = .ok i) :
    step s = exec i (moveRead s) := by
  have hneeds := descaddrNeedsStage2_of_skips hskips
  have hfetch : fetch { s with inputs := s.inputs.tail } = .descriptor i (moveRead s) := by
    rcases fetch_cases { s with inputs := s.inputs.tail } with ⟨h, -⟩ | ⟨h, -⟩ | ⟨-, e⟩
    · exact absurd (hneeds.symm.trans h) Bool.false_ne_true
    · exact absurd (hneeds.symm.trans h) Bool.false_ne_true
    · exact e.trans (fetchRequest_of_decodeWord hdecode)
  rw [step_of_walkersTurn hfetching hturn, iterate, hfetch]

/-- Settles O28: the move is `step_eq_exec_moveRead`, and an unraced read of eight listed bytes answers their value. -/
theorem moveRunsTheDescriptorInMemory : Obligations.MoveRunsTheDescriptorInMemory := by
  refine ⟨fun s i hfetching hturn hskips hdecode => ?_, fun s p w hholds => ?_⟩
  · exact step_eq_exec_moveRead hfetching hturn hskips hdecode
  · rw [memRead_unraced s p hholds.unraced]
    exact answer64_of_bytes s.tick hholds.bytes

/-! ## Non-secure walks and Secure memory (R42, R119, R163) -/

/-- The state with all of Secure memory replaced. -/
def withSecure (cells : List Host.Cell) (s : State) : State := { s with mem := { s.mem with secure := cells } }

/-- Replacing Secure memory leaves every byte of the Non-secure space (log entry 34). -/
theorem answer64_withSecure (cells : List Host.Cell) (s : State) (tick a : Nat) :
    (withSecure cells s).mem.answer64 1#1 tick a = s.mem.answer64 1#1 tick a := rfl

theorem memRead_withSecure (cells : List Host.Cell) (s : State) {p : FullAddress} (h : p.ns = 1#1) :
    memRead (withSecure cells s) p = memRead s p := by
  have hvalues (a : Nat) : earlierValues (withSecure cells s) 1#1 a = earlierValues s 1#1 a := rfl
  have htick : (withSecure cells s).tick = s.tick := rfl
  simp only [memRead, h, hvalues, htick, answer64_withSecure]

/-- A read of the Non-secure space is the same whatever Secure memory holds. -/
theorem readDescriptor_withSecure (cells : List Host.Cell) (s : State) {r : ReadRequest}
    (h : r.paddress.ns = 1#1) :
    readDescriptor r (withSecure cells s) = withSecure cells (readDescriptor r s) := by
  unfold readDescriptor
  rw [memRead_withSecure cells s h]
  rfl

theorem moveRead_withSecure (cells : List Host.Cell) {s : State} (h : s.vars.nsTable = 1#1) :
    moveRead (withSecure cells s) = withSecure cells (moveRead s) :=
  readDescriptor_withSecure cells
    { s.withVars (addressVars s.vars) with inputs := s.inputs.tail }
    (r := readRequest s.vars.descaddr.memattrs (descriptorAddress s.vars) s.call) h

theorem descend_withSecure (cells : List Host.Cell) (desc : Descriptor) (s : State) :
    descend desc (withSecure cells s) = withSecure cells (descend desc s) := by
  unfold descend
  rw [apply_ite (withSecure cells)]
  rfl

theorem finishWalk_withSecure (cells : List Host.Cell) (desc : Descriptor) (s : State) :
    finishWalk desc (withSecure cells s) = withSecure cells (finishWalk desc s) := by
  unfold finishWalk
  simp only [apply_ite (withSecure cells)]
  rfl

/-- No descriptor reads memory. -/
theorem exec_withSecure (cells : List Host.Cell) {i : Instr} {s t : State} (h : exec i s = .next t) :
    exec i (withSecure cells s) = .next (withSecure cells t) := by
  cases i <;> cases h
  · rfl
  · rfl
  · exact congrArg Host.Outcome.next (finishWalk_withSecure cells _ s)
  · exact congrArg Host.Outcome.next (descend_withSecure cells _ s)
  · exact congrArg Host.Outcome.next (finishWalk_withSecure cells _ s)

/-- Settles O57: the move reads one descriptor, of the Non-secure space since `ns_table` is '1', and runs it. -/
theorem nonSecureWalkIgnoresSecureMemory : Obligations.NonSecureWalkIgnoresSecureMemory := by
  intro s t cells hinv hfetching hlookup hskips hturn hstep
  have hloop := hinv.loop hfetching
  obtain ⟨-, -, hlevel⟩ := hloop.levels
  obtain ⟨i, hdecode⟩ := decodeWord_total s.vars.level (moveRead s).vars.desc hlevel
  rw [step_eq_exec_moveRead hfetching hturn hskips hdecode] at hstep
  have hmove := moveRead_withSecure cells (hloop.nonsecure hlookup)
  calc step (withSecure cells s)
    _ = exec i (moveRead (withSecure cells s)) :=
      step_eq_exec_moveRead hfetching hturn hskips (by rw [hmove]; exact hdecode)
    _ = exec i (withSecure cells (moveRead s)) := by rw [hmove]
    _ = .next (withSecure cells t) := exec_withSecure cells hstep

end Sys2Proof.Machine
end

section
/-! PROOFS. The encoding (spec/30_encoding.md): decoding and encoding undo each other (R60 to R63), every word has one
class at each level (R61), and the ignored bits of a descriptor have no effect (R62, R63). -/

namespace Sys2Proof.Machine

/-! ## The fields of a word (R61 to R63) -/

theorem bit_field {n : Nat} (v : BitVec n) (lo len : Nat) {k : Nat} (hk : k < len) :
    bit (v.extractLsb' lo len) k = bit v (lo + k) := by
  refine BitVec.eq_of_getLsbD_eq fun i hi => ?_
  obtain rfl : i = 0 := by omega
  simp [bit, hk]

theorem encodeLeaf_low (low : BitVec 2) (f : LeafFields) : (encodeLeaf low f).extractLsb' 0 2 = low :=
  BitVec.extractLsb'_append_eq_right

theorem encodeTable_low (f : TableFields) : (encodeTable f).extractLsb' 0 2 = 0b11#2 :=
  BitVec.extractLsb'_append_eq_right

/-- Each field of R63 lies where the concatenation of the fields puts it. -/
theorem decodeLeaf_encodeLeaf (low : BitVec 2) (f : LeafFields) : decodeLeaf (encodeLeaf low f) = f := by
  unfold decodeLeaf encodeLeaf
  simp (disch := omega) only [BitVec.extractLsb'_append_eq_of_le, BitVec.extractLsb'_append_eq_of_add_le,
    Nat.reduceSub, BitVec.extractLsb'_eq_self]

/-- Each field of R62 lies where the concatenation of the fields puts it. -/
theorem decodeTable_encodeTable (f : TableFields) : decodeTable (encodeTable f) = f := by
  unfold decodeTable encodeTable
  simp (disch := omega) only [BitVec.extractLsb'_append_eq_of_le, BitVec.extractLsb'_append_eq_of_add_le,
    Nat.reduceSub, BitVec.extractLsb'_eq_self]

/-- The fields of R63 are neighbours, and with bits 1:0 they are the whole word. -/
theorem encodeLeaf_decodeLeaf {w : Descriptor} {low : BitVec 2} (h : w.extractLsb' 0 2 = low) :
    encodeLeaf low (decodeLeaf w) = w := by
  unfold encodeLeaf decodeLeaf
  simp (disch := omega) only [← h, BitVec.extractLsb'_append_extractLsb'_eq_extractLsb',
    BitVec.extractLsb'_eq_self]

/-- The fields of R62 are neighbours, and with bits 1:0 they are the whole word. -/
theorem encodeTable_decodeTable {w : Descriptor} (h : w.extractLsb' 0 2 = 0b11#2) :
    encodeTable (decodeTable w) = w := by
  unfold encodeTable decodeTable
  simp (disch := omega) only [← h, BitVec.extractLsb'_append_extractLsb'_eq_extractLsb',
    BitVec.extractLsb'_eq_self]

/-! ## The decoder, class by class (R61) -/

theorem decodeWord_of_level_gt {level : Nat} (w : Descriptor) (h : 3 < level) :
    decodeWord level w = .error .noSuchLevel := by
  simp [decodeWord, h]

theorem decodeWord_invalid {level : Nat} {w : Descriptor} (hlevel : level ≤ 3) (h : w.extractLsb' 0 1 = 0#1) :
    decodeWord level w = .ok (.invalid (w.extractLsb' 1 63)) := by
  have h0 : bit w 0 = 0#1 := h
  simp [decodeWord, h0, hlevel]

/-- Bits 0 and 1 of a word, which the decoder tests, from bits 1:0. -/
theorem tested_bits {w : Descriptor} {low : BitVec 2} (h : w.extractLsb' 0 2 = low) :
    bit w 0 = bit low 0 ∧ bit w 1 = bit low 1 := by
  subst h
  exact ⟨(bit_field w 0 2 (k := 0) (by decide)).symm, (bit_field w 0 2 (k := 1) (by decide)).symm⟩

theorem decodeWord_reservedL3 {w : Descriptor} (h : w.extractLsb' 0 2 = 0b01#2) :
    decodeWord 3 w = .ok (.reservedL3 (w.extractLsb' 2 62)) := by
  obtain ⟨h0, h1⟩ : bit w 0 = 1#1 ∧ bit w 1 = 0#1 := tested_bits h
  simp [decodeWord, h0, h1]

theorem decodeWord_block {level : Nat} {w : Descriptor} (hlevel : level < 3) (h : w.extractLsb' 0 2 = 0b01#2) :
    decodeWord level w = .ok (.block (decodeLeaf w)) := by
  obtain ⟨h0, h1⟩ : bit w 0 = 1#1 ∧ bit w 1 = 0#1 := tested_bits h
  simp [decodeWord, h0, h1, hlevel.ne, hlevel.le]

theorem decodeWord_table {level : Nat} {w : Descriptor} (hlevel : level < 3) (h : w.extractLsb' 0 2 = 0b11#2) :
    decodeWord level w = .ok (.table (decodeTable w)) := by
  obtain ⟨h0, h1⟩ : bit w 0 = 1#1 ∧ bit w 1 = 1#1 := tested_bits h
  simp [decodeWord, h0, h1, hlevel.ne, hlevel.le]

theorem decodeWord_page {w : Descriptor} (h : w.extractLsb' 0 2 = 0b11#2) :
    decodeWord 3 w = .ok (.page (decodeLeaf w)) := by
  obtain ⟨h0, h1⟩ : bit w 0 = 1#1 ∧ bit w 1 = 1#1 := tested_bits h
  simp [decodeWord, h0, h1]

/-- Bit 0 is clear, or bits 1:0 are '01' or '11': the three patterns of R61. -/
theorem low_bits_cases (w : Descriptor) :
    w.extractLsb' 0 1 = 0#1 ∨ w.extractLsb' 0 2 = 0b01#2 ∨ w.extractLsb' 0 2 = 0b11#2 := by
  have patterns : ∀ low : BitVec 2, bit low 0 = 0#1 ∨ low = 0b01#2 ∨ low = 0b11#2 := by decide
  exact (patterns (w.extractLsb' 0 2)).imp_left (bit_field w 0 2 (by decide)).symm.trans

/-- What a decoded word is, by its class: the pattern of its bits, the level, and the operands. -/
theorem decodeWord_ok_cases {level : Nat} {w : Descriptor} {i : Instr} (h : decodeWord level w = .ok i) :
    (level ≤ 3 ∧ w.extractLsb' 0 1 = 0#1 ∧ i = .invalid (w.extractLsb' 1 63)) ∨
    (level = 3 ∧ w.extractLsb' 0 2 = 0b01#2 ∧ i = .reservedL3 (w.extractLsb' 2 62)) ∨
    (level < 3 ∧ w.extractLsb' 0 2 = 0b01#2 ∧ i = .block (decodeLeaf w)) ∨
    (level < 3 ∧ w.extractLsb' 0 2 = 0b11#2 ∧ i = .table (decodeTable w)) ∨
    (level = 3 ∧ w.extractLsb' 0 2 = 0b11#2 ∧ i = .page (decodeLeaf w)) := by
  rcases Nat.lt_trichotomy level 3 with hlt | rfl | hgt
  · rcases low_bits_cases w with hw | hw | hw
    · rw [decodeWord_invalid hlt.le hw] at h
      exact .inl ⟨hlt.le, hw, (Except.ok.inj h).symm⟩
    · rw [decodeWord_block hlt hw] at h
      exact .inr (.inr (.inl ⟨hlt, hw, (Except.ok.inj h).symm⟩))
    · rw [decodeWord_table hlt hw] at h
      exact .inr (.inr (.inr (.inl ⟨hlt, hw, (Except.ok.inj h).symm⟩)))
  · rcases low_bits_cases w with hw | hw | hw
    · rw [decodeWord_invalid le_rfl hw] at h
      exact .inl ⟨le_rfl, hw, (Except.ok.inj h).symm⟩
    · rw [decodeWord_reservedL3 hw] at h
      exact .inr (.inl ⟨rfl, hw, (Except.ok.inj h).symm⟩)
    · rw [decodeWord_page hw] at h
      exact .inr (.inr (.inr (.inr ⟨rfl, hw, (Except.ok.inj h).symm⟩)))
  · rw [decodeWord_of_level_gt w hgt] at h
    cases h

/-! ## The two round trips (R60 to R63) -/

/-- Settles O1: the low bits that an encoding puts down select the class at its level, and each operand is read where
it was put. -/
theorem decodeOfEncodeIsTheDescriptor : Obligations.DecodeOfEncodeIsTheDescriptor := by
  intro level i h
  cases i with
  | invalid rest =>
    have hlevel : level ≤ 3 := by simpa [Instr.wellFormedAt] using h
    have hlow : (encode (.invalid rest)).extractLsb' 0 1 = 0#1 := BitVec.extractLsb'_append_eq_right
    have hrest : (encode (.invalid rest)).extractLsb' 1 63 = rest := BitVec.extractLsb'_append_eq_left
    rw [decodeWord_invalid hlevel hlow, hrest]
  | reservedL3 rest =>
    obtain rfl : level = 3 := by simpa [Instr.wellFormedAt] using h
    have hlow : (encode (.reservedL3 rest)).extractLsb' 0 2 = 0b01#2 := BitVec.extractLsb'_append_eq_right
    have hrest : (encode (.reservedL3 rest)).extractLsb' 2 62 = rest := BitVec.extractLsb'_append_eq_left
    rw [decodeWord_reservedL3 hlow, hrest]
  | block f =>
    have hlevel : level < 3 := by simpa [Instr.wellFormedAt] using h
    rw [encode, decodeWord_block hlevel (encodeLeaf_low _ f), decodeLeaf_encodeLeaf]
  | table f =>
    have hlevel : level < 3 := by simpa [Instr.wellFormedAt] using h
    rw [encode, decodeWord_table hlevel (encodeTable_low f), decodeTable_encodeTable]
  | page f =>
    obtain rfl : level = 3 := by simpa [Instr.wellFormedAt] using h
    rw [encode, decodeWord_page (encodeLeaf_low _ f), decodeLeaf_encodeLeaf]

/-- Settles O2: in each class of `decodeWord_ok_cases` the operands and the low bits are the whole word. -/
theorem encodeOfDecodeIsTheWord : Obligations.EncodeOfDecodeIsTheWord := by
  intro level w i h
  rcases decodeWord_ok_cases h with ⟨hlevel, hw, rfl⟩ | ⟨rfl, hw, rfl⟩ | ⟨hlevel, hw, rfl⟩ | ⟨hlevel, hw, rfl⟩ |
    ⟨rfl, hw, rfl⟩
  · refine ⟨?_, by simpa [Instr.wellFormedAt] using hlevel⟩
    rw [encode, ← hw]
    exact BitVec.extractLsb'_append_extractLsb'
  · refine ⟨?_, rfl⟩
    rw [encode, ← hw]
    exact BitVec.extractLsb'_append_extractLsb'
  · exact ⟨encodeLeaf_decodeLeaf hw, by simpa [Instr.wellFormedAt] using hlevel⟩
  · exact ⟨encodeTable_decodeTable hw, by simpa [Instr.wellFormedAt] using hlevel⟩
  · exact ⟨encodeLeaf_decodeLeaf hw, rfl⟩

/-! ## The rows of the decode table (R61) -/

/-- Two rows that match one word at one level are the same row: rows that share a level ask for different values of a
bit that both masks look at. -/
theorem row_unique {level : Nat} {w : Descriptor} {a b : OpcodeRow} (ha : a ∈ opcodeRows) (hb : b ∈ opcodeRows)
    (hla : level ∈ a.levels) (hlb : level ∈ b.levels) (hwa : w &&& a.mask = a.pattern)
    (hwb : w &&& b.mask = b.pattern) : a = b := by
  have apart : ∀ a ∈ opcodeRows, ∀ b ∈ opcodeRows,
      a = b ∨ (∀ l ∈ a.levels, l ∉ b.levels) ∨ a.pattern &&& b.mask ≠ b.pattern &&& a.mask := by decide
  rcases apart a ha b hb with heq | hlevels | hpatterns
  · exact heq
  · exact absurd hlb (hlevels level hla)
  · refine absurd ?_ hpatterns
    rw [← hwa, ← hwb, BitVec.and_assoc, BitVec.and_assoc, BitVec.and_comm a.mask]

theorem row_eq_of_mnemonic {a b : OpcodeRow} (ha : a ∈ opcodeRows) (hb : b ∈ opcodeRows)
    (h : a.mnemonic = b.mnemonic) : a = b := by
  have distinct : ∀ a ∈ opcodeRows, ∀ b ∈ opcodeRows, a.mnemonic = b.mnemonic → a = b := by decide
  exact distinct a ha b hb h

/-- The encoding of a descriptor matches the row of its class (R61 to R63). -/
theorem exists_row_of_encode (i : Instr) :
    ∃ row ∈ opcodeRows, row.mnemonic = i.mnemonic ∧ encode i &&& row.mask = row.pattern := by
  cases i with
  | invalid rest => exact Laws.EncodeMatchesRow.invalid rest
  | reservedL3 rest => exact Laws.EncodeMatchesRow.reservedL3 rest
  | block f => exact Laws.EncodeMatchesRow.block f
  | table f => exact Laws.EncodeMatchesRow.table f
  | page f => exact Laws.EncodeMatchesRow.page f

/-- The level column of a descriptor's row holds every level, of 0 to 3, at which its class exists. -/
theorem level_mem_row {level : Nat} {i : Instr} {row : OpcodeRow} (hlevel : level ≤ 3) (hrow : row ∈ opcodeRows)
    (hname : row.mnemonic = i.mnemonic) (h : i.wellFormedAt level = true) : level ∈ row.levels := by
  have column : ∀ row ∈ opcodeRows, ∀ l ≤ 3,
      (row.mnemonic = "INVALID" → l ∈ row.levels) ∧
      (row.mnemonic = "RESERVED_L3" ∨ row.mnemonic = "PAGE" → l = 3 → l ∈ row.levels) ∧
      (row.mnemonic = "BLOCK" ∨ row.mnemonic = "TABLE" → l < 3 → l ∈ row.levels) := by decide
  obtain ⟨hall, hlast, hupper⟩ := column row hrow level hlevel
  cases i with
  | invalid rest => exact hall hname
  | reservedL3 rest => exact hlast (.inl hname) (by simpa [Instr.wellFormedAt] using h)
  | block f => exact hupper (.inl hname) (by simpa [Instr.wellFormedAt] using h)
  | table f => exact hupper (.inr hname) (by simpa [Instr.wellFormedAt] using h)
  | page f => exact hlast (.inr hname) (by simpa [Instr.wellFormedAt] using h)

/-- Settles O3: a word is the encoding of the descriptor it decodes to, so it matches that descriptor's row, and no
other row of the level. -/
theorem everyWordHasExactlyOneClass : Obligations.EveryWordHasExactlyOneClass := by
  intro level w hlevel
  obtain ⟨i, hi⟩ := decodeWord_total level w hlevel
  obtain ⟨hencode, hwf⟩ := encodeOfDecodeIsTheWord level w i hi
  obtain ⟨own, hown, hname, hmatch⟩ := exists_row_of_encode i
  have hat : level ∈ own.levels := level_mem_row hlevel hown hname hwf
  rw [hencode] at hmatch
  refine ⟨i, hi, fun row hrow => ⟨fun ⟨hl, hw⟩ => ?_, fun hn => ?_⟩⟩
  · rw [row_unique hrow hown hl hat hw hmatch, hname]
  · rw [row_eq_of_mnemonic hrow hown (hn.trans hname.symm)]
    exact ⟨hat, hmatch⟩

/-! ## The bytes of a descriptor (R45, R60) -/

theorem decodeWord_ok_iff (level : Nat) (w : Descriptor) : (∃ i, decodeWord level w = .ok i) ↔ level ≤ 3 := by
  refine ⟨fun ⟨i, hi⟩ => ?_, decodeWord_total level w⟩
  by_contra hgt
  rw [decodeWord_of_level_gt w (by omega)] at hi
  cases hi

/-- Eight bytes are the word that they are put together to. -/
theorem decode_eight (level : Nat) {bytes : List Byte} (h : bytes.length = 8) :
    ∃ w, decode level bytes = decodeWord level w := by
  match bytes, h with
  | [b0, b1, b2, b3, b4, b5, b6, b7], _ => exact ⟨fromBytes b0 b1 b2 b3 b4 b5 b6 b7, rfl⟩

theorem decode_not_eight (level : Nat) {bytes : List Byte} (h : bytes.length ≠ 8) :
    decode level bytes = .error .notEightBytes := by
  unfold decode
  split
  · exact absurd rfl h
  · rfl

/-- Settles O4: eight bytes decode as their word does, and no other list decodes. -/
theorem onlyEightBytesAtLevelsZeroToThreeDecode : Obligations.OnlyEightBytesAtLevelsZeroToThreeDecode := by
  intro level bytes
  by_cases h : bytes.length = 8
  · obtain ⟨w, hw⟩ := decode_eight level h
    simp [hw, decodeWord_ok_iff, h]
  · simp [decode_not_eight level h, h]

/-- Settles O5: the five words, decoded. -/
theorem sampleWordsDecode : Obligations.SampleWordsDecode :=
  ⟨by decide, by decide, by decide, by decide, by decide⟩

/-! ## The ignored bits (R62, R63) -/

theorem slice_eq_iff {n : Nat} (v w : BitVec n) (hi lo : Nat) :
    slice v hi lo = slice w hi lo ↔ ∀ k, lo ≤ k → k ≤ hi → v.getLsbD k = w.getLsbD k := by
  constructor
  · intro h k hlo hhi
    have hk : (slice v hi lo).getLsbD (k - lo) = (slice w hi lo).getLsbD (k - lo) := by rw [h]
    rw [getLsbD_slice, getLsbD_slice, show lo + (k - lo) = k by omega] at hk
    simpa [show k - lo < hi + 1 - lo by omega] using hk
  · intro h
    refine BitVec.eq_of_getLsbD_eq fun k hk => ?_
    rw [getLsbD_slice, getLsbD_slice, h (lo + k) (by omega) (by omega)]

/-- Words whose address fields (bits 47:12) agree from bit `b` up agree in bits 47:`b`. -/
theorem slice_eq_of_address {v w : Descriptor} {b : Nat} (hb : 12 ≤ b)
    (h : ∀ k, b ≤ k + 12 → (v.extractLsb' 12 36).getLsbD k = (w.extractLsb' 12 36).getLsbD k) :
    slice v 47 b = slice w 47 b := by
  refine (slice_eq_iff v w 47 b).mpr fun k hlo hhi => ?_
  simpa [show k - 12 < 36 by omega, show 12 + (k - 12) = k by omega] using h (k - 12) (by omega)

/-- The output size check looks at no bit below the output size (R117, R135). -/
theorem exceedsOutputSize_congr {v w : BitVec 64} {b os : Nat} (h : slice v 47 b = slice w 47 b) (hos : b ≤ os) :
    exceedsOutputSize os v = exceedsOutputSize os w := by
  rw [slice_eq_iff] at h
  have above : slice v 47 os = slice w 47 os := (slice_eq_iff v w 47 os).mpr fun k hk => h k (by omega)
  rw [exceedsOutputSize, exceedsOutputSize, above]

/-! ### TABLE (R62) -/

/-- Two table words that differ in ignored bits alone, where a table address is bits 47:`grainsize`. -/
structure SameTable (grainsize : Nat) (v w : Descriptor) : Prop where
  pxnTable : (decodeTable v).pxnTable = (decodeTable w).pxnTable
  xnTable : (decodeTable v).xnTable = (decodeTable w).xnTable
  apTable : (decodeTable v).apTable = (decodeTable w).apTable
  nsTable : (decodeTable v).nsTable = (decodeTable w).nsTable
  address : slice v 47 grainsize = slice w 47 grainsize

theorem accumulateAp_congr {v w : Descriptor} (singlepriv : Bool) (apTable : BitVec 2)
    (h : (decodeTable v).apTable = (decodeTable w).apTable) :
    accumulateAp singlepriv v apTable = accumulateAp singlepriv w apTable := by
  have h61 (u : Descriptor) : bit (decodeTable u).apTable 0 = bit u 61 := bit_field u 61 2 (by decide)
  have h62 (u : Descriptor) : bit (decodeTable u).apTable 1 = bit u 62 := bit_field u 61 2 (by decide)
  simp only [accumulateAp, ← h61, ← h62, h]

theorem accumulateTable_congr {grainsize : Nat} {v w : Descriptor} (secondstage : Bool) (vars : Vars)
    (h : SameTable grainsize v w) : accumulateTable secondstage v vars = accumulateTable secondstage w vars := by
  have hpxn : bit v 59 = bit w 59 := h.pxnTable
  have hxn : bit v 60 = bit w 60 := h.xnTable
  have hns : bit v 63 = bit w 63 := h.nsTable
  simp only [accumulateTable, accumulateAp_congr _ _ h.apTable, hpxn, hxn, hns]

theorem descendVars_congr {v w : Descriptor} (secondstage : Bool) {vars : Vars}
    (h : SameTable vars.params.grainsize v w) :
    descendVars secondstage v vars = descendVars secondstage w vars := by
  simp only [descendVars, tableAddress, accumulateTable_congr _ _ h, h.address]

theorem descend_congr {v w : Descriptor} {s : State} (h : SameTable s.vars.params.grainsize v w)
    (hsize : s.vars.params.grainsize ≤ s.vars.outputsize) : descend v s = descend w s := by
  simp only [descend, exceedsOutputSize_congr h.address hsize, descendVars_congr _ h]

theorem encodeTable_address (f : TableFields) : (encodeTable f).extractLsb' 12 36 = f.address :=
  congrArg TableFields.address (decodeTable_encodeTable f)

/-- Settles O21: TABLE's effect is that of its word, and the two words are the same table. -/
theorem ignoredTableBitsHaveNoEffect : Obligations.IgnoredTableBitsHaveNoEffect := by
  intro f g s hgrain hsize hpxn hxn hap hns haddress
  have same : SameTable s.vars.params.grainsize (encodeTable f) (encodeTable g) :=
    { pxnTable := by rwa [decodeTable_encodeTable, decodeTable_encodeTable]
      xnTable := by rwa [decodeTable_encodeTable, decodeTable_encodeTable]
      apTable := by rwa [decodeTable_encodeTable, decodeTable_encodeTable]
      nsTable := by rwa [decodeTable_encodeTable, decodeTable_encodeTable]
      address := slice_eq_of_address hgrain (by rwa [encodeTable_address, encodeTable_address]) }
  exact congrArg Host.Outcome.next (descend_congr same hsize)

/-! ### BLOCK and PAGE (R63) -/

/-- Two block or page words that differ in ignored bits alone, where the output address is bits 47:`b`. -/
structure SameLeaf (b : Nat) (v w : Descriptor) : Prop where
  fields : decodeLeaf w =
    { decodeLeaf v with
      address := (decodeLeaf w).address
      ignoredMid := (decodeLeaf w).ignoredMid
      ignoredHigh := (decodeLeaf w).ignoredHigh }
  address : slice v 47 b = slice w 47 b

/-- Bits 5:2 are the fields `ns` and `attrIndx` (R63). -/
theorem slice_memattr (w : Descriptor) : slice w 5 2 = (decodeLeaf w).ns ++ (decodeLeaf w).attrIndx :=
  (BitVec.extractLsb'_append_extractLsb'_eq_extractLsb' (start₁ := 2) (len₁ := 3) (len₂ := 1) rfl).symm

theorem unpackVars_congr {v w : Descriptor} {vars : Vars} (h : SameLeaf vars.addrselectbottom v w) :
    unpackVars v vars = unpackVars w vars := by
  have hxn : bit w 54 = bit v 54 := congrArg LeafFields.xn h.fields
  have hpxn : bit w 53 = bit v 53 := congrArg LeafFields.pxn h.fields
  have hcontiguous : bit w 52 = bit v 52 := congrArg LeafFields.contiguous h.fields
  have hnG : bit w 11 = bit v 11 := congrArg LeafFields.nG h.fields
  have hsh : slice w 9 8 = slice v 9 8 := congrArg LeafFields.sh h.fields
  have hap : slice w 7 6 = slice v 7 6 := congrArg LeafFields.ap h.fields
  have hmemattr : slice w 5 2 = slice v 5 2 := by rw [slice_memattr, h.fields, slice_memattr]
  simp only [unpackVars, joinOffset, h.address, hxn, hpxn, hcontiguous, hnG, hsh, hap, hmemattr]

theorem finishWalk_congr {v w : Descriptor} {s : State} (h : SameLeaf s.vars.addrselectbottom v w)
    (hsize : s.vars.addrselectbottom ≤ s.vars.outputsize) : finishWalk v s = finishWalk w s := by
  have hcontiguous : bit w 52 = bit v 52 := congrArg LeafFields.contiguous h.fields
  have haf : bit w 10 = bit v 10 := congrArg LeafFields.af h.fields
  have hexceeds : exceedsOutputSize (leafVars s.vars).outputsize v = exceedsOutputSize (leafVars s.vars).outputsize w :=
    exceedsOutputSize_congr h.address hsize
  have hunpack : unpackVars v (leafVars s.vars) = unpackVars w (leafVars s.vars) := unpackVars_congr h
  simp only [finishWalk, withVars_vars, hcontiguous, haf, hexceeds, hunpack]

theorem encodeLeaf_address (low : BitVec 2) (f : LeafFields) : (encodeLeaf low f).extractLsb' 12 36 = f.address :=
  congrArg LeafFields.address (decodeLeaf_encodeLeaf low f)

/-- Settles O22: a block and a page have the effect of their word, and whatever the low bits the two words are the same
leaf. -/
theorem ignoredLeafBitsHaveNoEffect : Obligations.IgnoredLeafBitsHaveNoEffect := by
  intro f g s hbottom hsize hfields haddress
  have same (low : BitVec 2) : SameLeaf s.vars.addrselectbottom (encodeLeaf low f) (encodeLeaf low g) :=
    { fields := by rwa [decodeLeaf_encodeLeaf, decodeLeaf_encodeLeaf]
      address := slice_eq_of_address hbottom (by rwa [encodeLeaf_address, encodeLeaf_address]) }
  exact ⟨congrArg Host.Outcome.next (finishWalk_congr (same 0b01#2) hsize),
    congrArg Host.Outcome.next (finishWalk_congr (same 0b11#2) hsize)⟩

/-! ## The model's own placement (log entry 17) -/

/-- The bytes of a word in memory decode as the word (R45). -/
theorem decode_toBytes (level : Nat) (w : Descriptor) : decode level (toBytes w) = decodeWord level w := by
  have hw : fromBytes (byteOf w 0) (byteOf w 1) (byteOf w 2) (byteOf w 3) (byteOf w 4) (byteOf w 5) (byteOf w 6)
      (byteOf w 7) = w :=
    eq_of_bytes fun k j hk hj => (getLsbD_fromBytes (byteOf w) hk hj).trans (getLsbD_byteOf w k hj)
  exact congrArg (decodeWord level) hw

theorem decodeWord_of_decodeTableWord {nbits w : Nat} {i : Instr} (h : decodeTableWord nbits w = some i) :
    decodeWord tableWordLevel (loadValue nbits w).value = .ok i := by
  unfold decodeTableWord at h
  rw [decode_toBytes] at h
  split at h
  · rename_i j hj
    split at h
    · rw [← Option.some.inj h]
      exact hj
    · cases h
  · cases h

/-- No racing value lies where the placed walk reads (R53). -/
theorem earlierValues_placeDescriptor (nbits w : Nat) (s : State) :
    earlierValues (placeDescriptor nbits w s) 0#1 0 = [] := by
  simp [earlierValues, placeDescriptor]

/-- The placed walk reads the placed word. -/
theorem moveRead_placeDescriptor_desc (nbits w : Nat) (s : State) :
    (moveRead (placeDescriptor nbits w s)).vars.desc = (loadValue nbits w).value := by
  have haddress : descriptorAddress loadVars = { physicaladdress := 0#48, ns := 0#1 } := by decide
  calc (moveRead (placeDescriptor nbits w s)).vars.desc
    _ = memRead (placeDescriptor nbits w s) (descriptorAddress loadVars) := rfl
    _ = (s.mem.store64 (loadValue nbits w)).answer64 0#1 s.tick 0 := by
      rw [haddress]
      exact memRead_unraced _ _ (earlierValues_placeDescriptor nbits w s)
    _ = (loadValue nbits w).value := answer64_store64 s.mem (loadValue nbits w) s.tick

/-- Settles O60: the placed walk is Secure, so its move skips stage 2 and runs the descriptor of the word it reads. -/
theorem placedDescriptorRunsNext : Obligations.PlacedDescriptorRunsNext := by
  intro s nbits w i h
  have hdecode : decodeWord tableWordLevel (moveRead (placeDescriptor nbits w s)).vars.desc = .ok i := by
    rw [moveRead_placeDescriptor_desc]
    exact decodeWord_of_decodeTableWord h
  have hstep := step_eq_exec_moveRead (s := placeDescriptor nbits w s) rfl (.inr ⟨s.inputs, rfl⟩)
    (.inr (.inr (.inl rfl))) hdecode
  exact ⟨moveRead (placeDescriptor nbits w s), hstep, rfl, rfl⟩

end Sys2Proof.Machine
end

section
/-! PROOFS. The parameters of a walk (spec/41_walk_parameters.md): the record derived for the admitted walk (R91 to
R96, R102), the checks before the first read (R97, R99), and the walk at the head of the loop (R98, R100, R101). -/

namespace Sys2Proof.Machine

/-! ## The grain (R95) -/

/-- The grain rows that `TG0` selects, on the table of D1 (R94, R95, D15). -/
theorem admittedParams_large {cfg : Config} {r : Registers} (c : Call) (hd1 : cfg.grain = GrainTable.d1)
    (h : r.tcrEl1.tg0 = 0b01#2) :
    (admittedParams cfg r c).grainsize = 16 ∧ (admittedParams cfg r c).firstblocklevel = 2 ∧
      (admittedParams cfg r c).stride = 13 := by
  simp [admittedParams, grainRow, hd1, GrainTable.d1, h]

theorem admittedParams_mid {cfg : Config} {r : Registers} (c : Call) (hd1 : cfg.grain = GrainTable.d1)
    (h : r.tcrEl1.tg0 = 0b10#2) :
    (admittedParams cfg r c).grainsize = 14 ∧ (admittedParams cfg r c).firstblocklevel = 2 ∧
      (admittedParams cfg r c).stride = 11 := by
  simp [admittedParams, grainRow, hd1, GrainTable.d1, h]

theorem admittedParams_small {cfg : Config} {r : Registers} (c : Call) (hd1 : cfg.grain = GrainTable.d1)
    (h : r.tcrEl1.tg0 = 0b00#2 ∨ r.tcrEl1.tg0 = 0b11#2) :
    (admittedParams cfg r c).grainsize = 12 ∧ (admittedParams cfg r c).firstblocklevel = 1 ∧
      (admittedParams cfg r c).stride = 9 := by
  obtain h | h := h <;> simp [admittedParams, grainRow, hd1, GrainTable.d1, h]

theorem tg0_cases (tg0 : BitVec 2) : tg0 = 0b01#2 ∨ tg0 = 0b10#2 ∨ (tg0 = 0b00#2 ∨ tg0 = 0b11#2) := by
  revert tg0
  decide

/-- Whatever `TG0`, the derived grain is one of R95. -/
theorem admittedParams_grain {cfg : Config} (r : Registers) (c : Call) (hd1 : cfg.grain = GrainTable.d1) :
    ((admittedParams cfg r c).grainsize = 12 ∨ (admittedParams cfg r c).grainsize = 14 ∨
        (admittedParams cfg r c).grainsize = 16) ∧
      (admittedParams cfg r c).stride = (admittedParams cfg r c).grainsize - 3 ∧
      (admittedParams cfg r c).firstblocklevel ≤ 3 := by
  rcases tg0_cases r.tcrEl1.tg0 with h | h | h
  · obtain ⟨hgrain, hfirst, hstride⟩ := admittedParams_large c hd1 h
    omega
  · obtain ⟨hgrain, hfirst, hstride⟩ := admittedParams_mid c hd1 h
    omega
  · obtain ⟨hgrain, hfirst, hstride⟩ := admittedParams_small c hd1 h
    omega

/-- Settles O40: the grain by `TG0`, and every other field is the register field it is taken from. -/
theorem derivedParametersAreTheTable : Obligations.DerivedParametersAreTheTable := by
  intro cfg r c hd1
  exact ⟨rfl, beq_iff_eq, beq_iff_eq, beq_iff_eq, rfl, rfl, rfl, beq_iff_eq, rfl, rfl, rfl,
    admittedParams_large c hd1, admittedParams_mid c hd1, admittedParams_small c hd1⟩

/-! ## The input size and the range test (R92, R93) -/

theorem deriveInputsize_legal {t0sz : Nat} (draw : Constraint) (hlow : (25 : Int) ≤ 64 - t0sz)
    (hhigh : 64 - (t0sz : Int) ≤ 48) : deriveInputsize t0sz draw = 64 - t0sz := by
  simp [deriveInputsize, not_lt.mpr hlow, not_lt.mpr hhigh]

theorem deriveInputsize_fault (t0sz : Nat) : deriveInputsize t0sz .fault = 64 - t0sz := by
  simp [deriveInputsize]

theorem deriveInputsize_above {t0sz : Nat} (h : 48 < 64 - (t0sz : Int)) : deriveInputsize t0sz .force = 48 := by
  simp [deriveInputsize, h]

theorem deriveInputsize_below {t0sz : Nat} (h : 64 - (t0sz : Int) < 25) : deriveInputsize t0sz .force = 25 := by
  have hhigh : ¬ 48 < 64 - (t0sz : Int) := by omega
  simp [deriveInputsize, h, hhigh]

/-- Settles O41: the four cases of R92. -/
theorem inputSizeIsForcedOrKept : Obligations.InputSizeIsForcedOrKept := by
  intro cfg r c n p
  have hsize : p.inputsize = deriveInputsize r.tcrEl1.t0sz c.draw := rfl
  refine ⟨fun hlow hhigh => ?_, fun hdraw => ?_, fun habove hdraw => ?_, fun hbelow hdraw => ?_⟩
  · rw [hsize, deriveInputsize_legal c.draw hlow hhigh]
  · rw [hsize, hdraw, deriveInputsize_fault]
  · rw [hsize, hdraw, deriveInputsize_above habove]
  · rw [hsize, hdraw, deriveInputsize_below hbelow]

theorem isZero_slice_iff {n : Nat} (v : BitVec n) (hi lo : Nat) :
    isZero (slice v hi lo) = true ↔ ∀ k, lo ≤ k → k ≤ hi → v.getLsbD k = false := by
  have hzero : slice (0#n) hi lo = 0#_ := by simp [slice]
  rw [isZero, beq_iff_eq, ← hzero, slice_eq_iff]
  simp only [BitVec.getLsbD_zero]

theorem deriveBasefound_iff (inputaddr : BitVec 64) (top : Nat) (inputsize : Int) :
    deriveBasefound inputaddr top inputsize = true ↔
      25 ≤ inputsize ∧ inputsize ≤ 48 ∧ ∀ k, inputsize.toNat ≤ k → k ≤ top → inputaddr.getLsbD k = false := by
  simp only [deriveBasefound, Bool.and_eq_true, decide_eq_true_eq, isZero_slice_iff, and_assoc]

/-- Settles O42: the test of R93 on the derived input size. -/
theorem baseFoundIsTheRangeTest : Obligations.BaseFoundIsTheRangeTest :=
  fun _ r c => deriveBasefound_iff c.vaddress c.top (deriveInputsize r.tcrEl1.t0sz c.draw)

/-! ## The start level (R96, R100) -/

/-- `RoundUp(a / b)` is the least number of `b`s that reaches `a` (R7). -/
theorem roundUpDiv_bounds (a : Int) {b : Int} (hb : 0 < b) :
    a ≤ roundUpDiv a b * b ∧ roundUpDiv a b * b < a + b := by
  have hdiv : -a / b * b + -a % b = -a := Int.ediv_mul_add_emod (-a) b
  have hnonneg := Int.emod_nonneg (-a) hb.ne'
  have hlt := Int.emod_lt_of_pos (-a) hb
  rw [roundUpDiv, Int.neg_mul]
  omega

/-- The first table of a legal input size is indexed by 1 to `stride` address bits, and its level is 0 to 3 (R96). -/
theorem startLevel_bounds {inputsize : Int} {grainsize stride : Nat}
    (hgrain : grainsize = 12 ∨ grainsize = 14 ∨ grainsize = 16) (hstride : stride = grainsize - 3)
    (hlow : 25 ≤ inputsize) (hhigh : inputsize ≤ 48) :
    (0 ≤ startLevel inputsize grainsize stride ∧ startLevel inputsize grainsize stride ≤ 3) ∧
      1 ≤ inputsize - ((3 - startLevel inputsize grainsize stride) * stride + grainsize) ∧
      inputsize - ((3 - startLevel inputsize grainsize stride) * stride + grainsize) ≤ stride := by
  have hround := roundUpDiv_bounds (inputsize - grainsize) (b := stride) (by omega)
  unfold startLevel
  generalize roundUpDiv (inputsize - grainsize) stride = strides at hround ⊢
  subst hstride
  rcases hgrain with rfl | rfl | rfl <;> omega

/-- The lowest index bit of a legal level (R65, R111), in the unbounded integers of R5. -/
theorem selectBottom_toNat {level : Int} (stride grainsize : Nat) (hlow : 0 ≤ level) (hhigh : level ≤ 3) :
    (selectBottom level.toNat stride grainsize : Int) = (3 - level) * stride + grainsize := by
  have hlevel : ((3 - level.toNat : Nat) : Int) = 3 - level := by omega
  rw [selectBottom, Nat.cast_add, Nat.cast_mul, hlevel]

/-- `baselowerbound` where the first table has an index (R100). -/
theorem baseLowerBound_eq {p : WalkParams} (hlow : 0 ≤ p.level) (hhigh : p.level ≤ 3)
    (hindex : (3 - p.level) * p.stride + p.grainsize ≤ p.inputsize) :
    (baseLowerBound p : Int) = 3 + p.inputsize - ((3 - p.level) * p.stride + p.grainsize) := by
  have hbottom := selectBottom_toNat p.stride p.grainsize hlow hhigh
  rw [← hbottom] at hindex ⊢
  unfold baseLowerBound
  omega

/-- Settles O43: the bounds of the start level, and `baselowerbound` is three more than the index bits. -/
theorem startLevelConsumesTheInputAddress : Obligations.StartLevelConsumesTheInputAddress := by
  intro p hgrain hstride hlow hhigh hlevel
  obtain ⟨⟨hlevel0, hlevel3⟩, hpos, hfew⟩ := startLevel_bounds hgrain hstride hlow hhigh
  rw [← hlevel] at hlevel0 hlevel3 hpos hfew
  have hbase := baseLowerBound_eq hlevel0 hlevel3 (by omega)
  exact ⟨hlevel0, hlevel3, hpos, hfew, by omega, by omega⟩

/-! ## The admitted call (R90, R102) -/

/-- What makes a record well formed, the converse of `wellFormed_based` (R102). -/
theorem wellFormed_of_grain {p : WalkParams}
    (hgrain : p.grainsize = 12 ∨ p.grainsize = 14 ∨ p.grainsize = 16) (hstride : p.stride = p.grainsize - 3)
    (hfirst : p.firstblocklevel ≤ 3)
    (hbased : p.basefound = true → 25 ≤ p.inputsize ∧ p.inputsize ≤ 48 ∧ 0 ≤ p.level ∧ p.level ≤ 3 ∧
      selectBottom p.level.toNat p.stride p.grainsize < p.inputsize.toNat) : p.wellFormed = true := by
  have hgrain' : (p.grainsize = 12 ∨ p.grainsize = 14) ∨ p.grainsize = 16 := or_assoc.mpr hgrain
  cases hfound : p.basefound with
  | false => simp [WalkParams.wellFormed, hfound, hgrain', hstride, hfirst]
  | true => simp [WalkParams.wellFormed, hgrain', ← hstride, hfirst, hbased hfound]

/-- The derived record is well formed on the table of D1: where the base is found, the input size is legal (R93) and
the start level consumes it (R96). -/
theorem admittedParams_wellFormed {cfg : Config} (r : Registers) (c : Call) (hd1 : cfg.grain = GrainTable.d1) :
    (admittedParams cfg r c).wellFormed = true := by
  obtain ⟨hgrain, hstride, hfirst⟩ := admittedParams_grain r c hd1
  refine wellFormed_of_grain hgrain hstride hfirst fun hfound => ?_
  obtain ⟨hlow, hhigh, -⟩ := (baseFoundIsTheRangeTest cfg r c).mp hfound
  obtain ⟨hlevel0, hlevel3, hpos, -⟩ := startLevelConsumesTheInputAddress _ hgrain hstride hlow hhigh rfl
  have hbottom := selectBottom_toNat (admittedParams cfg r c).stride (admittedParams cfg r c).grainsize hlevel0 hlevel3
  exact ⟨hlow, hhigh, hlevel0, hlevel3, by omega⟩

/-- An accepted call on a well-formed record starts the walk (R80, R102). -/
theorem step_callWith_of_accepted {s : State} {c : Call} {p : WalkParams} {rest : List Input}
    (hacc : CallAccepted s c) (hwf : p.wellFormed = true) (hin : s.inputs = .callWith c p :: rest) :
    step s = .next (startWalk c p { s with inputs := rest }) := by
  rw [step_call_of_idle (supplied := some p) hacc.idle hin, enterWalk_supplied p (hacc.withInputs rest), if_pos hwf]

/-- Settles O39: the derived record is well formed, and both calls are the entry on it. -/
theorem admittedCallUsesTheDerivedParameters : Obligations.AdmittedCallUsesTheDerivedParameters := by
  intro s c rest hadm hd1 hin
  have hwf := admittedParams_wellFormed s.regs c hd1
  have hderive := deriveParams_admitted s.config hadm.stage1 hadm.regime hadm.lowerHalf
  have hcall : step s = enterWalk c none { s with inputs := rest } :=
    step_call_of_idle (supplied := none) hadm.accepted.idle hin
  have hwith : step { s with inputs := .callWith c (admittedParams s.config s.regs c) :: rest } =
      enterWalk c (some (admittedParams s.config s.regs c)) { s with inputs := rest } :=
    step_call_of_idle (supplied := some _) hadm.accepted.idle rfl
  have hsame := hcall.trans ((enterWalk_derived (s := { s with inputs := rest }) hderive).trans hwith.symm)
  exact ⟨hwf, hsame, _, hsame.trans (step_callWith_of_accepted (hadm.accepted.withInputs _) hwf rfl)⟩

/-! ## The start of a walk, check by check (R97 to R101) -/

theorem startWalk_not_based (c : Call) {p : WalkParams} (s : State) (h : p.basefound = false ∨ p.disabled = true) :
    startWalk c p s = raiseTranslationFault (beginWalk c (freshVars p s.regs) s) := by
  rcases startWalk_cases c p s with ⟨-, e⟩ | ⟨hfound, henabled, -⟩ | ⟨hfound, henabled, -⟩
  · exact e
  · simp [hfound, henabled] at h
  · simp [hfound, henabled] at h

theorem startWalk_base_too_big (c : Call) {p : WalkParams} (s : State) (hfound : p.basefound = true)
    (henabled : p.disabled = false) (hbig : ¬ FitsOutputSize (outputSize p.ps s.config.paMax) p.baseregister) :
    startWalk c p s = raiseAddressSizeFault (beginWalk c (freshVars p s.regs) s) := by
  rcases startWalk_cases c p s with ⟨h, -⟩ | ⟨-, -, -, e⟩ | ⟨-, -, hfits, -⟩
  · simp [hfound, henabled] at h
  · exact e
  · exact absurd hfits hbig

theorem startWalk_base_fits (c : Call) {p : WalkParams} (s : State) (hfound : p.basefound = true)
    (henabled : p.disabled = false) (hfits : FitsOutputSize (outputSize p.ps s.config.paMax) p.baseregister) :
    startWalk c p s = beginWalk c (loopVars s.config p s.regs) s := by
  rcases startWalk_cases c p s with ⟨h, -⟩ | ⟨-, -, hbig, -⟩ | ⟨-, -, -, e⟩
  · simp [hfound, henabled] at h
  · exact absurd hfits hbig
  · exact e

/-- The fault of an entry has the call's arguments and level 0 (R97, R99, R155). -/
theorem faultArgs_freshWalk (c : Call) (p : WalkParams) (r : Registers) (s : State) :
    faultArgs (beginWalk c (freshVars p r) s) = callFaultArgs c 0 := rfl

/-- Settles O44: the walk that R97 stops has its fresh variables, of level 0 and no read. -/
theorem baseNotFoundOrDisabledFaults : Obligations.BaseNotFoundOrDisabledFaults := by
  intro s c p rest hacc hwf hin hstop
  have hstep := step_callWith_of_accepted hacc hwf hin
  rw [startWalk_not_based c _ hstop] at hstep
  exact ⟨_, hstep, ⟨by simp [faultArgs_freshWalk], rfl⟩, rfl, rfl, rfl, rfl, rfl⟩

/-- Settles O45: the walk that R99 stops has its fresh variables, of level 0 and no read. -/
theorem baseRegisterTooBigFaults : Obligations.BaseRegisterTooBigFaults := by
  intro s c p rest hacc hwf hin hfound henabled hbig
  have hstep := step_callWith_of_accepted hacc hwf hin
  rw [startWalk_base_too_big c { s with inputs := rest } hfound henabled hbig] at hstep
  exact ⟨_, hstep, ⟨by simp [faultArgs_freshWalk], rfl⟩, rfl, rfl, rfl, rfl, rfl⟩

theorem outputSize_eq_min (ps : BitVec 3) (paMax : Nat) : outputSize ps paMax = min paMax (psOutputsize ps) := by
  unfold outputSize
  split <;> omega

/-- Settles O46: the cap of R98 on each encoded size. -/
theorem outputSizeIsCappedByPAMax : Obligations.OutputSizeIsCappedByPAMax := by
  intro paMax
  exact ⟨outputSize_eq_min _ _, outputSize_eq_min _ _, outputSize_eq_min _ _, outputSize_eq_min _ _,
    outputSize_eq_min _ _, outputSize_eq_min _ _, outputSize_eq_min _ _, outputSize_eq_min _ _⟩

/-- Settles O47: the walk past R97 and R99 is at the head of the loop with `loopVars`, whose natural numbers are the
integers of R96, R100 and R101 because the record is well formed. -/
theorem walkBeginsAtTheFirstTable : Obligations.WalkBeginsAtTheFirstTable := by
  intro s c p rest hacc hwf hin hfound henabled hfits
  have hstep := step_callWith_of_accepted hacc hwf hin
  rw [startWalk_base_fits c { s with inputs := rest } hfound henabled hfits] at hstep
  obtain ⟨-, -, -, hsize, ⟨hlevel0, hlevel3⟩, hindex⟩ := wellFormed_based hwf hfound henabled
  have hbottom := selectBottom_toNat p.stride p.grainsize hlevel0 hlevel3
  have hlevel : (p.level.toNat : Int) = p.level := Int.toNat_of_nonneg hlevel0
  have hbase := baseLowerBound_eq hlevel0 hlevel3 (by omega)
  have htop : ((p.inputsize.toNat - 1 : Nat) : Int) = p.inputsize - 1 := by omega
  exact ⟨_, hstep, rfl, rfl, rfl, rfl, rfl, rfl, rfl, rfl, rfl, rfl, hlevel, hbase,
    getLsbD_tableAddress p.baseregister (baseLowerBound p), rfl, rfl, rfl, rfl, htop, rfl⟩

end Sys2Proof.Machine
end

section
/-! PROOFS. The loop of a walk (spec/42_walk_loop.md): the descriptor's address (R111), its read behind stage 2 (R112 to
R114), the effect of INVALID, RESERVED_L3 and TABLE (R115 to R120), and that a sound walk returns (R121) and, where its
lookup is Non-secure, stays Non-secure (R119, R140). -/

namespace Sys2Proof.Machine

/-! ## INVALID and RESERVED_L3 (R115) -/

theorem raiseTranslationFault_eq (s : State) :
    raiseTranslationFault s =
      { s with
        result := some (.fault (.translation (callFaultArgs s.call s.vars.level)))
        phase := .idle } := rfl

/-- Settles O7: the class raises a Translation fault whatever its operands are. -/
theorem invalidReturnsATranslationFault : Obligations.InvalidReturnsATranslationFault :=
  fun _ s => congrArg Host.Outcome.next (raiseTranslationFault_eq s)

/-- Settles O8: the class raises a Translation fault whatever its operands are. -/
theorem reservedReturnsATranslationFault : Obligations.ReservedReturnsATranslationFault :=
  fun _ s => congrArg Host.Outcome.next (raiseTranslationFault_eq s)

/-- Settles O9: of the words that decode, those with bit 0 clear are INVALID and those with '01' at level 3 are
RESERVED_L3. -/
theorem invalidWordsFaultAtTheirLevel : Obligations.InvalidWordsFaultAtTheirLevel := by
  intro s w i hdecode hbits
  have faulting {low : BitVec 2} (hlow : w.extractLsb' 0 2 = low) :
      bit low 0 = 0#1 ∨ bit low 1 = 0#1 ∧ s.vars.level = 3 := by
    obtain ⟨h0, h1⟩ := tested_bits hlow
    rw [← h0, ← h1, bit_eq_zero_iff, bit_eq_zero_iff]
    exact hbits.imp_right fun ⟨hbit1, _, hlevel⟩ => ⟨hbit1, hlevel⟩
  rcases decodeWord_ok_cases hdecode with ⟨-, -, rfl⟩ | ⟨-, -, rfl⟩ | ⟨hlevel, hlow, -⟩ | ⟨-, hlow, -⟩ | ⟨-, hlow, -⟩
  · exact invalidReturnsATranslationFault _ s
  · exact reservedReturnsATranslationFault _ s
  · exact absurd (faulting hlow) (by simp [bit, hlevel.ne])
  · exact absurd (faulting hlow) (by simp [bit])
  · exact absurd (faulting hlow) (by simp [bit])

/-! ## TABLE (R117 to R120) -/

theorem exec_table (f : TableFields) (s : State) : exec (.table f) s = .next (descend (encode (.table f)) s) := rfl

theorem descend_of_fits {desc : Descriptor} {s : State} (h : FitsOutputSize s.vars.outputsize desc) :
    descend desc s = s.withVars (descendVars s.call.secondstage desc s.vars) := by
  rcases descend_cases desc s with ⟨hnot, -⟩ | ⟨-, e⟩
  · exact absurd h hnot
  · exact e

theorem descend_of_not_fits {desc : Descriptor} {s : State} (h : ¬ FitsOutputSize s.vars.outputsize desc) :
    descend desc s = raiseAddressSizeFault s := by
  rcases descend_cases desc s with ⟨-, e⟩ | ⟨hfits, -⟩
  · exact e
  · exact absurd hfits h

/-- Settles O10: the check of R117 comes first, before the level is incremented. -/
theorem tableAddressTooBigFaults : Obligations.TableAddressTooBigFaults := by
  intro f s hnot
  rw [exec_table, descend_of_not_fits hnot]
  rfl

/-- Bits 63, 60 and 59 of a table word, which R119 accumulates, are its operands (R62). -/
theorem encodeTable_attributes (f : TableFields) :
    bit (encodeTable f) 63 = f.nsTable ∧ bit (encodeTable f) 60 = f.xnTable ∧ bit (encodeTable f) 59 = f.pxnTable :=
  have hfields := decodeTable_encodeTable f
  ⟨congrArg TableFields.nsTable hfields, congrArg TableFields.xnTable hfields, congrArg TableFields.pxnTable hfields⟩

theorem encodeTable_apTable_bit (f : TableFields) {k : Nat} (hk : k < 2) :
    (encodeTable f).getLsbD (61 + k) = f.apTable.getLsbD k := by
  have hap : (encodeTable f).extractLsb' 61 2 = f.apTable := congrArg TableFields.apTable (decodeTable_encodeTable f)
  simp [← hap, hk]

theorem getLsbD_pair (hi lo : Bit) :
    (hi ++ lo : BitVec 2).getLsbD 1 = hi.getLsbD 0 ∧ (hi ++ lo : BitVec 2).getLsbD 0 = lo.getLsbD 0 :=
  ⟨BitVec.getLsbD_append, BitVec.getLsbD_append⟩

/-- `ap_table[1]` takes bit 62 in every regime (R119). -/
theorem accumulateAp_bit1 (singlepriv : Bool) (desc : Descriptor) (apTable : BitVec 2) :
    (accumulateAp singlepriv desc apTable).getLsbD 1 = (apTable.getLsbD 1 || desc.getLsbD 62) := by
  rw [accumulateAp, BitVec.getLsbD_or, (getLsbD_pair _ _).1]
  simp [bit]

/-- `ap_table[0]` takes bit 61 where there are two privilege levels (R119). -/
theorem accumulateAp_bit0 (singlepriv : Bool) (desc : Descriptor) (apTable : BitVec 2) :
    (accumulateAp singlepriv desc apTable).getLsbD 0 = (apTable.getLsbD 0 || (!singlepriv && desc.getLsbD 61)) := by
  rw [accumulateAp, BitVec.getLsbD_or, (getLsbD_pair _ _).2]
  cases singlepriv <;> simp [bit]

/-- A stage 2 table leaves the four accumulators (R119). -/
theorem descendVars_attributes_stage2 (desc : Descriptor) (v : Vars) :
    (descendVars true desc v).nsTable = v.nsTable ∧ (descendVars true desc v).apTable = v.apTable ∧
      (descendVars true desc v).xnTable = v.xnTable ∧ (descendVars true desc v).pxnTable = v.pxnTable :=
  ⟨rfl, rfl, rfl, rfl⟩

/-- What a stage 1 table makes of the four accumulators (R119). -/
theorem descendVars_attributes_stage1 (desc : Descriptor) (v : Vars) :
    (descendVars false desc v).nsTable = v.nsTable ||| bit desc 63 ∧
      (descendVars false desc v).apTable = accumulateAp v.params.singlepriv desc v.apTable ∧
      (descendVars false desc v).xnTable = v.xnTable ||| bit desc 60 ∧
      (descendVars false desc v).pxnTable =
        if v.params.singlepriv then v.pxnTable else v.pxnTable ||| bit desc 59 :=
  ⟨rfl, rfl, rfl, rfl⟩

/-- A table descriptor assigns the next table, the level and the four accumulators only (R118 to R120). -/
theorem descendVars_frame (secondstage : Bool) (desc : Descriptor) (v : Vars) :
    descendVars secondstage desc v =
      { v with
        baseaddress := (descendVars secondstage desc v).baseaddress
        level := (descendVars secondstage desc v).level
        addrselecttop := (descendVars secondstage desc v).addrselecttop
        blocktranslate := (descendVars secondstage desc v).blocktranslate
        nsTable := (descendVars secondstage desc v).nsTable
        apTable := (descendVars secondstage desc v).apTable
        xnTable := (descendVars secondstage desc v).xnTable
        pxnTable := (descendVars secondstage desc v).pxnTable } := by
  cases secondstage <;> rfl

/-- Settles O11: an address that fits goes down with `descendVars`, whose accumulators are taken stage by stage and, in
stage 1, by the number of privilege levels. -/
theorem tableGoesDownOneLevel : Obligations.TableGoesDownOneLevel := by
  intro f s hfits
  obtain ⟨hns, hxn, hpxn⟩ := encodeTable_attributes f
  have hap (k : Nat) (hk : k < 2) := encodeTable_apTable_bit f hk
  refine ⟨descendVars s.call.secondstage (encodeTable f) s.vars, ?exec, ?address, rfl, rfl, rfl, fun hstage => ?stage2,
    fun hstage => ?stage1, descendVars_frame _ _ _⟩
  case exec => exact congrArg Host.Outcome.next (descend_of_fits hfits)
  case address => exact getLsbD_tableAddress (encodeTable f) s.vars.params.grainsize
  case stage2 =>
    rw [hstage]
    exact descendVars_attributes_stage2 _ _
  case stage1 =>
    obtain ⟨ens, eap, exn, epxn⟩ := descendVars_attributes_stage1 (encodeTable f) s.vars
    rw [hstage, ens, eap, exn, epxn, hns, hxn, hpxn, accumulateAp_bit1, accumulateAp_bit0, hap 0 (by decide),
      hap 1 (by decide)]
    exact ⟨rfl, rfl, rfl, fun two => by simp [two], fun one => by simp [one]⟩

/-! ## The accumulators are sticky (R119) -/

/-- Each bit of the four accumulators that is set in `v` is set in `w`. -/
structure StickyAttributes (v w : Vars) : Prop where
  nsTable : w.nsTable = w.nsTable ||| v.nsTable
  apTable : w.apTable = w.apTable ||| v.apTable
  xnTable : w.xnTable = w.xnTable ||| v.xnTable
  pxnTable : w.pxnTable = w.pxnTable ||| v.pxnTable

theorem StickyAttributes.of_eq {v w : Vars} (hns : w.nsTable = v.nsTable) (hap : w.apTable = v.apTable)
    (hxn : w.xnTable = v.xnTable) (hpxn : w.pxnTable = v.pxnTable) : StickyAttributes v w where
  nsTable := by rw [hns, BitVec.or_self]
  apTable := by rw [hap, BitVec.or_self]
  xnTable := by rw [hxn, BitVec.or_self]
  pxnTable := by rw [hpxn, BitVec.or_self]

/-- What an OR has set stays set. -/
theorem or_sticky {n : Nat} (x y : BitVec n) : x ||| y = (x ||| y) ||| x := by
  rw [BitVec.or_comm x y, BitVec.or_assoc, BitVec.or_self]

theorem stickyAttributes_descendVars (secondstage : Bool) (desc : Descriptor) (v : Vars) :
    StickyAttributes v (descendVars secondstage desc v) := by
  cases secondstage with
  | true =>
    obtain ⟨hns, hap, hxn, hpxn⟩ := descendVars_attributes_stage2 desc v
    exact .of_eq hns hap hxn hpxn
  | false =>
    obtain ⟨hns, hap, hxn, hpxn⟩ := descendVars_attributes_stage1 desc v
    refine ⟨by rw [hns]; exact or_sticky _ _, by rw [hap]; exact or_sticky _ _, by rw [hxn]; exact or_sticky _ _, ?_⟩
    rw [hpxn]
    split
    · exact BitVec.or_self.symm
    · exact or_sticky _ _

theorem descend_stickyAttributes (desc : Descriptor) (s : State) : StickyAttributes s.vars (descend desc s).vars := by
  rcases descend_cases desc s with ⟨-, e⟩ | ⟨-, e⟩ <;> rw [e]
  · exact .of_eq rfl rfl rfl rfl
  · exact stickyAttributes_descendVars _ _ _

/-- A leaf descriptor leaves the accumulators, whether it faults or returns. -/
theorem finishWalk_stickyAttributes (desc : Descriptor) (s : State) :
    StickyAttributes s.vars (finishWalk desc s).vars := by
  rcases finishWalk_cases desc s with ⟨-, e⟩ | ⟨-, -, e⟩ | ⟨-, -, -, e⟩ | ⟨-, -, -, -, e⟩ | ⟨-, e⟩ <;> rw [e] <;>
    exact .of_eq rfl rfl rfl rfl

theorem exec_stickyAttributes {i : Instr} {s t : State} (h : exec i s = .next t) :
    StickyAttributes s.vars t.vars := by
  rcases exec_cases i s with ⟨_, -, e⟩ | ⟨_, -, e⟩ | ⟨_, -, e⟩ | ⟨_, -, e⟩ <;> rw [e] at h <;> cases h
  · exact .of_eq rfl rfl rfl rfl
  · exact .of_eq rfl rfl rfl rfl
  · exact descend_stickyAttributes _ s
  · exact finishWalk_stickyAttributes _ s

/-- Settles O20: only TABLE assigns the accumulators, and what it assigns is an OR with the old value or that value. -/
theorem tableAttributesAreSticky : Obligations.TableAttributesAreSticky := by
  intro i s t h
  obtain ⟨hns, hap, hxn, hpxn⟩ := exec_stickyAttributes h
  exact ⟨hns, hap, hxn, hpxn⟩

/-! ## The descriptor's address and its read (R111 to R114) -/

/-- Settles O23: `addressVars` is R111 itself, and the index is read bit by bit. -/
theorem descriptorAddressIsBaseOrIndex : Obligations.DescriptorAddressIsBaseOrIndex :=
  fun v => ⟨rfl, getLsbD_tableIndex v.params.inputaddr v.addrselecttop v.bottom, rfl, rfl⟩

theorem descaddrNeedsStage2_iff (s : State) : descaddrNeedsStage2 s = true ↔ ¬ SkipsStage2 s := by
  simp only [descaddrNeedsStage2, SkipsStage2, Bool.and_eq_true, Bool.not_eq_true', bne_iff_ne, not_or,
    Bool.not_eq_false, Bool.not_eq_true]
  tauto

/-- The state in which a walk behind stage 2 runs the descriptor it has read: the turn and an answer of stage 2 are used
up, and the read is of the address that stage 2 answers. -/
def stage2Read (d : AddressDescriptor) (s : State) : State :=
  afterRead (readRequest d.memattrs d.paddress s.call) s.stage2.tail { s with inputs := s.inputs.tail }

/-- Where stage 2 answers without fault a move is the effect of the descriptor at the address it answers (R112). -/
theorem step_eq_exec_stage2Read {s : State} {i : Instr} (hfetching : s.phase = .fetching) (hturn : walkersTurn s)
    (hneeds : ¬ SkipsStage2 s) (hanswer : (stage2Answer (s.withVars (addressVars s.vars))).fault = .noFault)
    (hdecode : decodeWord s.vars.level
      (stage2Read (stage2Answer (s.withVars (addressVars s.vars))) s).vars.desc = .ok i) :
    step s = exec i (stage2Read (stage2Answer (s.withVars (addressVars s.vars))) s) := by
  have htranslated := (descaddrNeedsStage2_iff s).mpr hneeds
  have hfetch : fetch { s with inputs := s.inputs.tail } =
      .descriptor i (stage2Read (stage2Answer (s.withVars (addressVars s.vars))) s) := by
    rcases fetch_cases { s with inputs := s.inputs.tail } with ⟨-, hfault, -⟩ | ⟨-, -, e⟩ | ⟨hskips, -⟩
    · exact absurd hanswer hfault
    · exact e.trans (fetchRequest_of_decodeWord hdecode)
    · exact absurd (htranslated.symm.trans hskips) Bool.noConfusion
  rw [step_of_walkersTurn hfetching hturn, iterate, hfetch]

/-- Settles O29: the move is `step_eq_exec_stage2Read`, whatever answer without fault stage 2 gives. -/
theorem moveRunsTheDescriptorBehindStage2 : Obligations.MoveRunsTheDescriptorBehindStage2 := by
  intro s d i hfetching hturn hneeds hd hanswer hdecode
  subst hd
  exact step_eq_exec_stage2Read hfetching hturn hneeds hanswer hdecode

/-! ## A sound walk never stops (R121) -/

theorem level_of_fetchRequest_noSuchLevel {r : ReadRequest} {s : State} (h : fetchRequest r s = .noSuchLevel) :
    3 < s.vars.level := by
  rcases fetchRequest_cases r s with ⟨hlevel, -⟩ | ⟨_, -, e⟩
  · exact hlevel
  · cases e.symm.trans h

theorem level_of_fetch_noSuchLevel {s : State} (h : fetch s = .noSuchLevel) : 3 < s.vars.level := by
  rcases fetch_cases s with ⟨-, -, e⟩ | ⟨-, -, e⟩ | ⟨-, e⟩ <;> rw [e] at h
  · cases h
  · have hlevel := level_of_fetchRequest_noSuchLevel h
    exact hlevel
  · have hlevel := level_of_fetchRequest_noSuchLevel h
    exact hlevel

/-- At the levels 0 to 3 an iteration answers a next state. -/
theorem exists_next_of_iterate {s : State} (hlevel : s.vars.level ≤ 3) : ∃ t, iterate s = .next t := by
  rcases iterate_cases s with ⟨t, -, e⟩ | ⟨i, u, -, e⟩ | ⟨hstop, -⟩
  · exact ⟨t, e⟩
  · obtain ⟨t, ht, -⟩ := exec_next_sameSurroundings i u
    exact ⟨t, e.trans ht⟩
  · have := level_of_fetch_noSuchLevel hstop
    omega

theorem iterate_ne_fault {s : State} (hlevel : s.vars.level ≤ 3) (r : Fault) : iterate s ≠ .fault r := by
  obtain ⟨t, ht⟩ := exists_next_of_iterate hlevel
  simp [ht]

theorem enterWalk_ne_fault (c : Call) (supplied : Option WalkParams) (s : State) (r : Fault) :
    enterWalk c supplied s ≠ .fault r := by
  rcases enterWalk_cases c supplied s with ⟨_, e⟩ | ⟨_, -, e, -⟩ <;> simp [e]

theorem enterTranslation_ne_fault (c : Call) (supplied : Option WalkParams) (s : State) (r : Fault) :
    enterTranslation c supplied s ≠ .fault r := by
  rcases enterTranslation_cases c supplied s with ⟨_, -, e⟩ | ⟨_, -, -, _, _, _, _, -, e, -⟩ <;> simp [e]

/-- A walk in progress in a sound state is at a level that exists (R121). -/
theorem State.Inv.level_le {s : State} (h : s.Inv) (hfetching : s.phase = .fetching) : s.vars.level ≤ 3 := by
  obtain ⟨-, -, hlevel⟩ := (h.loop hfetching).levels
  exact hlevel

/-- Settles O54: of the moves of `step_cases` only an iteration can stop, and not at the level of a sound walk. -/
theorem soundStateNeverStops : Obligations.SoundStateNeverStops := by
  intro s r hinv
  rcases step_cases s with ⟨_, _, -, e⟩ | ⟨_, _, -, e⟩ | ⟨-, -, e⟩ | ⟨hfetching, -, e⟩ | ⟨hfetching, e, -⟩ |
    ⟨-, c, sup, rest, -, e⟩ | ⟨-, c, sup, rest, -, e⟩ <;> rw [e]
  · nofun
  · nofun
  · nofun
  · exact iterate_ne_fault (s := { s with inputs := s.inputs.tail }) (hinv.level_le hfetching) r
  · exact iterate_ne_fault (hinv.level_le hfetching) r
  · exact enterWalk_ne_fault _ _ _ r
  · exact enterTranslation_ne_fault _ _ _ r

/-! ## A walk left to itself returns (R121) -/

/-- A leaf descriptor ends the walk with a result, a fault or a translation. -/
theorem finishWalk_returned (desc : Descriptor) (s : State) : ∃ r, Returned r (finishWalk desc s) := by
  rcases finishWalk_cases desc s with ⟨-, e⟩ | ⟨-, -, e⟩ | ⟨-, -, -, e⟩ | ⟨-, -, -, -, e⟩ | ⟨-, e⟩ <;> rw [e] <;>
    exact ⟨_, rfl, rfl⟩

/-- A descriptor ends the walk with a result, or leaves it in progress one level down (R120). -/
theorem exec_returns_or_goes_down {i : Instr} {s t : State} (h : exec i s = .next t) :
    (∃ r, Returned r t) ∨ (t.phase = s.phase ∧ t.vars.level = s.vars.level + 1) := by
  rcases exec_cases i s with ⟨_, -, e⟩ | ⟨_, -, e⟩ | ⟨_, -, e⟩ | ⟨_, -, e⟩ <;> rw [e] at h <;> cases h
  · exact .inl ⟨_, rfl, rfl⟩
  · exact .inl ⟨_, rfl, rfl⟩
  · rcases descend_cases (encode i) s with ⟨-, e⟩ | ⟨-, e⟩ <;> rw [e]
    · exact .inl ⟨_, rfl, rfl⟩
    · exact .inr ⟨rfl, rfl⟩
  · exact .inl (finishWalk_returned _ s)

theorem iterate_returns_or_goes_down {s t : State} (h : iterate s = .next t) :
    (∃ r, Returned r t) ∨ (t.phase = s.phase ∧ t.vars.level = s.vars.level + 1) := by
  rcases iterate_next_cases h with ⟨_, _, rfl⟩ | ⟨i, r, answers, -, hexec⟩
  · exact .inl ⟨_, rfl, rfl⟩
  · have hmove := exec_returns_or_goes_down hexec
    exact hmove

/-- An idle walker that nobody calls stays as it is (log entry 16). -/
theorem core_run_of_idle {s : State} (hidle : s.phase = .idle) (hnone : s.inputs = []) (n : Nat) :
    Sys2Proof.core.run n s = .next s := by
  have hstep : Sys2Proof.core.step s = .next s := by
    show step s = .next s
    simp [step, walkerMoves, hidle, hnone]
  induction n with
  | zero => rfl
  | succ n ih => simp only [Host.Core.run, hstep, ih]

theorem core_run_succ_of_step {s t : State} (h : step s = .next t) (n : Nat) :
    Sys2Proof.core.run (n + 1) s = Sys2Proof.core.run n t := by
  have hstep : Sys2Proof.core.step s = .next t := h
  simp only [Host.Core.run, hstep]

/-- Settles O52: each move returns, after which the idle walker stays, or goes down to a sound walk, which happens at
most until level 3. -/
theorem walkReturnsWithinFourMoves : Obligations.WalkReturnsWithinFourMoves := by
  intro s hinv hfetching hnone
  generalize hmoves : 4 - s.vars.level = n
  induction n generalizing s with
  | zero =>
    have := hinv.level_le hfetching
    omega
  | succ n ih =>
    obtain ⟨t, hiter⟩ := exists_next_of_iterate (s := { s with inputs := s.inputs.tail }) (hinv.level_le hfetching)
    have hstep : step s = .next t := (step_of_walkersTurn hfetching (.inl hnone)).trans hiter
    have hinputs : t.inputs = [] := by simp [(iterate_sameWorld hiter).1.inputs, hnone]
    rw [core_run_succ_of_step hstep]
    rcases iterate_returns_or_goes_down hiter with ⟨r, hreturned⟩ | ⟨hphase, hlevel⟩
    · have hreads := step_reads_le hfetching hstep
      have hbefore := (hinv.loop hfetching).reads_le
      exact ⟨t, r, core_run_of_idle hreturned.phase hinputs n, hreturned, by omega⟩
    · have hdown : t.vars.level = s.vars.level + 1 := hlevel
      exact ih t (step_inv hinv hstep) (hphase.trans hfetching) hinputs (by omega)

/-! ## A Non-secure walk stays Non-secure (R119, R140, R163) -/

theorem StickyAttributes.nsTable_one {v w : Vars} (h : StickyAttributes v w) (hns : v.nsTable = 1#1) :
    w.nsTable = 1#1 := by
  rw [h.nsTable, hns]
  exact BitVec.or_allOnes

/-- From Non-secure tables, or in stage 2, every result is Non-secure (R140, R141). -/
theorem resultNs_of_nonsecure {v : Vars} (secondstage : Bool) (h : v.nsTable = 1#1) : resultNs secondstage v = 1#1 := by
  cases secondstage
  · exact (congrArg (bit v.memattr 3 ||| ·) h).trans BitVec.or_allOnes
  · rfl

/-- A descriptor of a walk with no result yet returns a translation only as an accepted leaf (R138 to R142). -/
theorem translation_of_exec {i : Instr} {s t : State} {r : Translation} (h : exec i s = .next t)
    (hopen : s.result = none) (hresult : t.result = some (.ok r)) :
    r = translationOf s.call s.tick (unpackVars (encode i) (leafVars s.vars)) := by
  rcases exec_cases i s with ⟨_, -, e⟩ | ⟨_, -, e⟩ | ⟨_, -, e⟩ | ⟨_, -, e⟩ <;> rw [e] at h <;> cases h
  · cases hresult
  · cases hresult
  · rcases descend_cases (encode i) s with ⟨-, e⟩ | ⟨-, e⟩ <;> rw [e] at hresult
    · cases hresult
    · cases hopen.symm.trans hresult
  · exact (translation_of_finishWalk hresult).2

/-- An iteration from Non-secure tables leaves `ns_table` set, and a translation it returns is Non-secure. -/
theorem iterate_nonsecure {s t : State} (hns : s.vars.nsTable = 1#1) (hopen : s.result = none)
    (h : iterate s = .next t) :
    t.vars.nsTable = 1#1 ∧ ∀ r, t.result = some (.ok r) → r.paddress.ns = 1#1 := by
  rcases iterate_next_cases h with ⟨_, _, rfl⟩ | ⟨i, r, answers, -, hexec⟩
  · exact ⟨hns, nofun⟩
  · refine ⟨(exec_stickyAttributes hexec).nsTable_one hns, fun x hx => ?_⟩
    rw [translation_of_exec hexec hopen hx]
    exact resultNs_of_nonsecure _ hns

/-- Where stage 2 is skipped the move's read is in the address space that `ns_table` names (R111). -/
theorem step_read_ns {s t : State} (hinv : s.Inv) (hfetching : s.phase = .fetching) (hturn : walkersTurn s)
    (hskips : SkipsStage2 s) (hstep : step s = .next t) : t.vars.descaddr2.paddress.ns = s.vars.nsTable := by
  obtain ⟨i, hdecode⟩ := decodeWord_total s.vars.level (moveRead s).vars.desc (hinv.level_le hfetching)
  rw [step_eq_exec_moveRead hfetching hturn hskips hdecode] at hstep
  obtain ⟨-, sample⟩ := sameSample_of_exec hstep
  rw [sample.descaddr2]
  rfl

/-- Settles O56: the invariant gives `ns_table` = '1', which is the space of the read, is sticky, and is ORed into the
NS bit of the result. -/
theorem nonSecureWalkStaysNonSecure : Obligations.NonSecureWalkStaysNonSecure := by
  intro s t hinv hfetching hlookup hturn hstep
  have hns := (hinv.loop hfetching).nonsecure hlookup
  have hiter := (step_of_walkersTurn hfetching hturn).symm.trans hstep
  have hread (hskips : SkipsStage2 s) := step_read_ns hinv hfetching hturn hskips hstep
  exact ⟨fun hskips => (hread hskips).trans hns,
    iterate_nonsecure (s := { s with inputs := s.inputs.tail }) hns (hinv.open_ hfetching) hiter⟩

end Sys2Proof.Machine
end

section
/-! PROOFS. The result of a walk (spec/43_walk_result.md): the checks that a block or page descriptor goes through in
the order of R156 (R130 to R136), and the translation that it returns when it passes them (R137 to R144). -/

namespace Sys2Proof.Machine

/-! ## A block or page descriptor is its word (R63, R116) -/

theorem exec_leaf {f : LeafFields} {i : Instr} (hi : i = .block f ∨ i = .page f) (s : State) :
    exec i s = .next (finishWalk (encode i) s) := by
  rcases hi with rfl | rfl <;> rfl

theorem decodeLeaf_encode {f : LeafFields} {i : Instr} (hi : i = .block f ∨ i = .page f) :
    decodeLeaf (encode i) = f := by
  rcases hi with rfl | rfl <;> exact decodeLeaf_encodeLeaf _ f

/-! ## The checks one after the other (R156): each equation takes the checks before its own as passed -/

theorem finishWalk_of_below {desc : Descriptor} {s : State} (h : s.vars.level < s.vars.params.firstblocklevel) :
    finishWalk desc s = raiseTranslationFault (s.withVars { s.vars with blocktranslate := true }) :=
  if_pos h

theorem finishWalk_of_not_contiguousAccepted {desc : Descriptor} {s : State}
    (hlevel : s.vars.params.firstblocklevel ≤ s.vars.level) (hcontiguous : ¬ ContiguousAccepted desc s) :
    finishWalk desc s = raiseTranslationFault (s.withVars (leafVars s.vars)) := by
  rcases finishWalk_cases desc s with ⟨hbelow, -⟩ | ⟨-, -, e⟩ | ⟨-, hc, -⟩ | ⟨-, hc, -⟩ | ⟨haccepted, -⟩
  · exact absurd hlevel hbelow.not_ge
  · exact e
  · exact absurd hc hcontiguous
  · exact absurd hc hcontiguous
  · exact absurd haccepted.contiguous hcontiguous

/-- What is left of the checks once those of R130 and R132 are passed. -/
theorem finishWalk_cases_of_contiguousAccepted {desc : Descriptor} {s : State}
    (hlevel : s.vars.params.firstblocklevel ≤ s.vars.level) (hcontiguous : ContiguousAccepted desc s) :
    (¬ FitsOutputSize s.vars.outputsize desc ∧
      finishWalk desc s = raiseAddressSizeFault (s.withVars (leafVars s.vars))) ∨
    (FitsOutputSize s.vars.outputsize desc ∧ desc.getLsbD 10 = false ∧
      finishWalk desc s = raiseAccessFlagFault (s.withVars (leafVars s.vars))) ∨
    (FitsOutputSize s.vars.outputsize desc ∧ desc.getLsbD 10 = true ∧
      finishWalk desc s =
        returnTranslation (translationOf s.call s.tick (unpackVars desc (leafVars s.vars)))
          (s.withVars (unpackVars desc (leafVars s.vars)))) := by
  rcases finishWalk_cases desc s with ⟨hbelow, -⟩ | ⟨-, hc, -⟩ | ⟨-, -, rest⟩ | ⟨-, -, rest⟩ | ⟨haccepted, e⟩
  · exact absurd hlevel hbelow.not_ge
  · exact absurd hcontiguous hc
  · exact .inl rest
  · exact .inr (.inl rest)
  · exact .inr (.inr ⟨haccepted.fits, haccepted.accessFlag, e⟩)

theorem finishWalk_of_not_fits {desc : Descriptor} {s : State}
    (hlevel : s.vars.params.firstblocklevel ≤ s.vars.level) (hcontiguous : ContiguousAccepted desc s)
    (hfits : ¬ FitsOutputSize s.vars.outputsize desc) :
    finishWalk desc s = raiseAddressSizeFault (s.withVars (leafVars s.vars)) := by
  rcases finishWalk_cases_of_contiguousAccepted hlevel hcontiguous with ⟨-, e⟩ | ⟨hf, -⟩ | ⟨hf, -⟩
  · exact e
  · exact absurd hf hfits
  · exact absurd hf hfits

theorem finishWalk_of_clear_accessFlag {desc : Descriptor} {s : State}
    (hlevel : s.vars.params.firstblocklevel ≤ s.vars.level) (hcontiguous : ContiguousAccepted desc s)
    (hfits : FitsOutputSize s.vars.outputsize desc) (hclear : desc.getLsbD 10 = false) :
    finishWalk desc s = raiseAccessFlagFault (s.withVars (leafVars s.vars)) := by
  rcases finishWalk_cases_of_contiguousAccepted hlevel hcontiguous with ⟨hf, -⟩ | ⟨-, -, e⟩ | ⟨-, hset, -⟩
  · exact absurd hfits hf
  · exact e
  · exact absurd (hclear.symm.trans hset) Bool.false_ne_true

theorem finishWalk_of_accepted {desc : Descriptor} {s : State} (h : LeafAccepted desc s) :
    finishWalk desc s =
      returnTranslation (translationOf s.call s.tick (unpackVars desc (leafVars s.vars)))
        (s.withVars (unpackVars desc (leafVars s.vars))) := by
  rcases finishWalk_cases_of_contiguousAccepted h.level h.contiguous with ⟨hf, -⟩ | ⟨-, hclear, -⟩ | ⟨-, -, e⟩
  · exact absurd h.fits hf
  · exact absurd (hclear.symm.trans h.accessFlag) Bool.false_ne_true
  · exact e

/-- A descriptor that passes R130 leaves the test of R131 in the variables, whatever the later checks say. -/
theorem finishWalk_contiguousbitcheck {desc : Descriptor} {s : State}
    (hlevel : s.vars.params.firstblocklevel ≤ s.vars.level) :
    (finishWalk desc s).vars.contiguousbitcheck = contiguousCheck s.vars := by
  rcases finishWalk_cases desc s with ⟨hbelow, -⟩ | ⟨-, -, e⟩ | ⟨-, -, -, e⟩ | ⟨-, -, -, -, e⟩ | ⟨-, e⟩
  · exact absurd hlevel hbelow.not_ge
  all_goals rw [e]; rfl

/-! ## The block level (R130) -/

/-- Settles O12: the first check fails. -/
theorem leafBelowFirstBlockLevelFaults : Obligations.LeafBelowFirstBlockLevelFaults := by
  intro f s i hi hbelow
  refine ⟨_, exec_leaf hi s, finishWalk_sameSurroundings _ s, ?_⟩
  rw [finishWalk_of_below hbelow]
  exact ⟨rfl, rfl⟩

/-! ## The contiguous bit (R131, R132) -/

theorem misprogrammed_of_not_contiguousAccepted {desc : Descriptor} {s : State} (h : ¬ ContiguousAccepted desc s) :
    Misprogrammed s.vars := by
  by_contra hnot
  exact h (.inr (.inr hnot))

/-- Settles O13: the second check fails, and it can fail only where the test of R131 is TRUE. -/
theorem misprogrammedContiguousBitFaults : Obligations.MisprogrammedContiguousBitFaults := by
  intro f s i hi hlevel hcontiguous
  have htest := (finishWalk_contiguousbitcheck (desc := encode i) hlevel).trans
    ((contiguousCheck_iff s.vars).mpr (misprogrammed_of_not_contiguousAccepted hcontiguous))
  refine ⟨_, exec_leaf hi s, finishWalk_sameSurroundings _ s, htest, ?_⟩
  rw [finishWalk_of_not_contiguousAccepted hlevel hcontiguous]
  exact ⟨rfl, rfl⟩

/-- Settles O14: the variable holds `contiguousCheck`, which is the three lines of R131. -/
theorem contiguousTestIsTheThreeThresholds : Obligations.ContiguousTestIsTheThreeThresholds := by
  intro f s t i hi hlevel hexec
  obtain rfl : finishWalk (encode i) s = t := Host.Outcome.next.inj ((exec_leaf hi s).symm.trans hexec)
  rw [finishWalk_contiguousbitcheck hlevel]
  exact contiguousCheck_iff s.vars

/-! ## The output address size and the access flag (R135, R136) -/

/-- Settles O15: the third check fails; the access flag is not looked at. -/
theorem leafAddressTooBigFaults : Obligations.LeafAddressTooBigFaults := by
  intro f s i hi hlevel hcontiguous hfits
  refine ⟨_, exec_leaf hi s, finishWalk_sameSurroundings _ s, ?_⟩
  rw [finishWalk_of_not_fits hlevel hcontiguous hfits]
  exact ⟨rfl, rfl⟩

/-- Settles O16: bit 10 of the word is the operand, and the last check fails on it. -/
theorem clearAccessFlagFaults : Obligations.ClearAccessFlagFaults := by
  intro f s i hi hlevel hcontiguous hfits haf
  have hbit : bit (encode i) 10 = 0#1 := (congrArg LeafFields.af (decodeLeaf_encode hi)).trans haf
  refine ⟨_, exec_leaf hi s, finishWalk_sameSurroundings _ s, ?_⟩
  rw [finishWalk_of_clear_accessFlag hlevel hcontiguous hfits ((bit_eq_zero_iff _ _).mp hbit)]
  exact ⟨rfl, rfl⟩

/-! ## A page in a sound walk (R130, R131) -/

/-- The test of R131 is made for blocks at level 1 or 2 only. -/
theorem not_misprogrammed_of_level_three {v : Vars} (h : v.level = 3) : ¬ Misprogrammed v := by
  rintro (⟨-, hlevel, -⟩ | ⟨-, -, hlevel, -⟩ | ⟨-, -, hlevel, -⟩) <;> omega

/-- Past the checks of R130 and R132 no Translation fault is raised. -/
theorem finishWalk_no_translation_fault {desc : Descriptor} {s : State}
    (hlevel : s.vars.params.firstblocklevel ≤ s.vars.level) (hcontiguous : ContiguousAccepted desc s)
    (a : FaultArgs) : (finishWalk desc s).result ≠ some (.fault (.translation a)) := by
  rcases finishWalk_cases_of_contiguousAccepted hlevel hcontiguous with ⟨-, e⟩ | ⟨-, -, e⟩ | ⟨-, -, e⟩ <;>
    rw [e] <;> nofun

/-- Settles O18: `firstblocklevel` is at most 3 by the invariant, so a page passes R130, and level 3 passes R132. -/
theorem pageGivesNoTranslationFault : Obligations.PageGivesNoTranslationFault := by
  intro f s hloop hthree
  have hlevel : s.vars.params.firstblocklevel ≤ s.vars.level := hthree ▸ hloop.firstblock
  have hcontiguous : ContiguousAccepted (encode (.page f)) s := .inr (.inr (not_misprogrammed_of_level_three hthree))
  exact ⟨_, exec_leaf (.inr rfl) s, finishWalk_no_translation_fault hlevel hcontiguous⟩

/-! ## The translation (R137 to R144) -/

/-- The variables that R137 unpacks are the operands of R63; bits 5:2 are two of them, and `ap[0]` is '1'. -/
theorem unpackVars_attributes {desc : Descriptor} {f : LeafFields} (h : decodeLeaf desc = f) (v : Vars) :
    (unpackVars desc v).xn = f.xn ∧ (unpackVars desc v).pxn = f.pxn ∧ (unpackVars desc v).contiguousbit = f.contiguous ∧
      (unpackVars desc v).nG = f.nG ∧ (unpackVars desc v).sh = f.sh ∧ (unpackVars desc v).ap = f.ap ++ 1#1 ∧
      (unpackVars desc v).memattr = f.ns ++ f.attrIndx := by
  subst h
  exact ⟨rfl, rfl, rfl, rfl, rfl, rfl, slice_memattr desc⟩

/-- MemAttr[3] is the operand `ns` and MemAttr[2:0] the operand `attrIndx` (R63). -/
theorem memattr_parts (ns : Bit) (attrIndx : BitVec 3) :
    bit (ns ++ attrIndx : BitVec 4) 3 = ns ∧ (ns ++ attrIndx : BitVec 4).extractLsb' 0 3 = attrIndx :=
  ⟨BitVec.extractLsb'_append_eq_left, BitVec.extractLsb'_append_eq_right⟩

theorem getLsbD_bit {n : Nat} (v : BitVec n) (k : Nat) : (bit v k).getLsbD 0 = v.getLsbD k := by
  simp [bit]

/-- The bits of a permission field `ap`, put together one by one (R139, R141). -/
theorem getLsbD_triple (hi mid lo : Bit) :
    (hi ++ mid ++ lo : BitVec 3).getLsbD 2 = hi.getLsbD 0 ∧ (hi ++ mid ++ lo : BitVec 3).getLsbD 1 = mid.getLsbD 0 ∧
      (hi ++ mid ++ lo : BitVec 3).getLsbD 0 = lo.getLsbD 0 :=
  ⟨BitVec.getLsbD_append.trans BitVec.getLsbD_append, BitVec.getLsbD_append.trans BitVec.getLsbD_append,
    BitVec.getLsbD_append⟩

/-- `ap[2:1]` of R137 is the operand `ap`. -/
theorem getLsbD_ap (ap : BitVec 2) :
    (ap ++ 1#1 : BitVec 3).getLsbD 2 = ap.getLsbD 1 ∧ (ap ++ 1#1 : BitVec 3).getLsbD 1 = ap.getLsbD 0 :=
  ⟨BitVec.getLsbD_append, BitVec.getLsbD_append⟩

theorem resultNs_eq {v : Vars} {f : LeafFields} (secondstage : Bool) (h : v.memattr = f.ns ++ f.attrIndx) :
    resultNs secondstage v = if secondstage then 1#1 else f.ns ||| v.nsTable := by
  rw [resultNs, h, (memattr_parts _ _).1]

theorem resultMemattrs_eq {v : Vars} {f : LeafFields} (secondstage : Bool) (acctype : AccType) (hsh : v.sh = f.sh)
    (h : v.memattr = f.ns ++ f.attrIndx) :
    resultMemattrs secondstage acctype v =
      if secondstage then .s2Attr f.sh (f.ns ++ f.attrIndx) acctype else .s1Attr f.sh f.attrIndx acctype := by
  rw [resultMemattrs, hsh, h, (memattr_parts _ _).2]

theorem resultNG_eq {v : Vars} {f : LeafFields} (secondstage : Bool) (h : v.nG = f.nG) :
    resultNG secondstage v =
      if secondstage || v.params.singlepriv then 0#1 else if v.secure then f.nG ||| v.nsTable else f.nG := by
  rw [resultNG, h]

/-- `ap[2]` takes the tables' `ap_table[1]` in stage 1 (R139, R141). -/
theorem resultPerms_ap_bit2 (secondstage : Bool) (v : Vars) :
    (resultPerms secondstage v).ap.getLsbD 2 = (v.ap.getLsbD 2 || (!secondstage && v.apTable.getLsbD 1)) := by
  cases secondstage with
  | false =>
    refine (getLsbD_triple _ _ _).1.trans ?_
    rw [BitVec.getLsbD_or, getLsbD_bit, getLsbD_bit]
    rfl
  | true =>
    refine (getLsbD_triple _ _ _).1.trans ?_
    rw [getLsbD_bit]
    exact (Bool.or_false _).symm

/-- `ap[1]` in stage 1 is set by a single privilege level and else cleared by the tables' `ap_table[0]` (R139, R141). -/
theorem resultPerms_ap_bit1 (secondstage : Bool) (v : Vars) :
    (resultPerms secondstage v).ap.getLsbD 1 =
      if secondstage then v.ap.getLsbD 1
      else v.params.singlepriv || (v.ap.getLsbD 1 && !v.apTable.getLsbD 0) := by
  cases secondstage with
  | false =>
    refine (getLsbD_triple _ _ _).2.1.trans ?_
    cases v.params.singlepriv <;> simp [bit]
  | true => exact (getLsbD_triple _ _ _).2.1.trans (getLsbD_bit _ _)

theorem resultPerms_ap_bit0 (secondstage : Bool) (v : Vars) : (resultPerms secondstage v).ap.getLsbD 0 = true := by
  cases secondstage <;> exact (getLsbD_triple _ _ _).2.2

theorem resultPerms_xn (secondstage : Bool) (v : Vars) :
    (resultPerms secondstage v).xn = if secondstage then v.xn else v.xn ||| v.xnTable := by
  cases secondstage <;> rfl

theorem resultPerms_pxn (secondstage : Bool) (v : Vars) :
    (resultPerms secondstage v).pxn = if secondstage || v.params.singlepriv then 0#1 else v.pxn ||| v.pxnTable := by
  cases secondstage <;> rfl

/-- A one-bit string is '1' where its bit is set (R142). -/
theorem beq_one_eq_getLsbD (b : Bit) : (b == 1#1) = b.getLsbD 0 := by
  revert b
  decide

/-- Settles O17: an accepted leaf returns `translationOf` the unpacked variables, which are the operands; each clause
reads one field of it, the attributes and permissions stage by stage. -/
theorem acceptedLeafReturnsTheTranslation : Obligations.AcceptedLeafReturnsTheTranslation := by
  intro f s i hi haccepted hselect _
  have hfinish := finishWalk_of_accepted haccepted
  obtain ⟨hxn, hpxn, hcontiguous, hnG, hsh, hap, hmemattr⟩ :=
    unpackVars_attributes (decodeLeaf_encode hi) (leafVars s.vars)
  obtain ⟨hap2, hap1⟩ := getLsbD_ap f.ap
  refine ⟨_, _, (exec_leaf hi s).trans (congrArg _ hfinish), hfinish ▸ finishWalk_sameSurroundings _ s, rfl,
    ⟨rfl, rfl⟩, ?address, resultNs_eq _ hmemattr, resultMemattrs_eq _ _ hsh hmemattr,
    (resultPerms_ap_bit2 _ _).trans ?ap2, (resultPerms_ap_bit1 _ _).trans ?ap1, resultPerms_ap_bit0 _ _,
    (resultPerms_xn _ _).trans ?xn, (resultPerms_pxn _ _).trans ?pxn, resultNG_eq _ hnG, rfl, rfl,
    (beq_one_eq_getLsbD _).trans ?contiguous⟩
  case address =>
    rw [← hselect]
    exact getLsbD_joinOffset (encode i) s.vars.params.inputaddr s.vars.addrselectbottom
  case ap2 => rw [hap, hap2]; rfl
  case ap1 => rw [hap, hap1]; rfl
  case xn => rw [hxn]; rfl
  case pxn => rw [hpxn]; rfl
  case contiguous => rw [hcontiguous]

end Sys2Proof.Machine
end

section
/-! PROOFS. The faults of a walk (spec/60_exceptions.md): they are records that the walk returns (R150), stage 2's own
among them (R154). -/

namespace Sys2Proof.Machine

/-! ## No descriptor stops the machine (R150) -/

/-- Settles O6: `exec_next_sameSurroundings`, class by class, without its frame. -/
theorem everyDescriptorCompletes : Obligations.EveryDescriptorCompletes := by
  intro i s
  obtain ⟨t, hnext, -⟩ := exec_next_sameSurroundings i s
  exact ⟨t, hnext⟩

/-! ## A fault of stage 2 on the descriptor address (R112, R154) -/

/-- The state in which stage 2's fault on the descriptor address has ended the walk: the turn, the answer of stage 2 and
a tick are used up, and the address (R111) is computed. -/
def stage2Faulted (s : State) : State :=
  returnFault (stage2Answer (s.withVars (addressVars s.vars))).fault
    { s.withVars (addressVars s.vars) with inputs := s.inputs.tail, stage2 := s.stage2.tail, tick := s.tick + 1 }

/-- Where stage 2 answers a fault a move returns it in place of the descriptor's effect. -/
theorem step_eq_stage2Faulted {s : State} (hfetching : s.phase = .fetching) (hturn : walkersTurn s)
    (hneeds : ¬ SkipsStage2 s) (hfault : (stage2Answer (s.withVars (addressVars s.vars))).fault ≠ .noFault) :
    step s = .next (stage2Faulted s) := by
  have htranslated := (descaddrNeedsStage2_iff s).mpr hneeds
  have hfetch : fetch { s with inputs := s.inputs.tail } = .returned (stage2Faulted s) := by
    rcases fetch_cases { s with inputs := s.inputs.tail } with ⟨-, -, e⟩ | ⟨-, hanswer, -⟩ | ⟨hskips, -⟩
    · exact e
    · exact absurd hanswer hfault
    · exact absurd (htranslated.symm.trans hskips) Bool.noConfusion
  rw [step_of_walkersTurn hfetching hturn, iterate, hfetch]

/-- Settles O30: the move ends in `stage2Faulted`, which holds stage 2's record; computing the address counts no read,
and returning a fault touches neither configuration nor registers nor memory. -/
theorem stage2FaultIsReturnedUnchanged : Obligations.Stage2FaultIsReturnedUnchanged := by
  intro s hfetching hturn hneeds hfault
  have hreturned : Returned (.fault (stage2Answer (s.withVars (addressVars s.vars))).fault) (stage2Faulted s) :=
    ⟨rfl, rfl⟩
  have hreads : (stage2Faulted s).vars.reads = s.vars.reads := rfl
  exact ⟨stage2Faulted s, step_eq_stage2Faulted hfetching hturn hneeds hfault, hreturned, hreads, rfl, rfl,
    fun _ _ => rfl⟩

end Sys2Proof.Machine
end

section
/-! PROOFS. What arrives while a walk is in progress (log entry 30): the counterpart, for a walker that is busy, of the
rules of an idle walker's call and translation. -/

namespace Sys2Proof.Machine

/-- The call stays at the head of the inputs: the iteration is that of `s` itself, from which no input is taken. -/
theorem step_call_of_fetching {s : State} {c : Call} {supplied : Option WalkParams} {rest : List Input}
    (hfetching : s.phase = .fetching) (hin : s.inputs = callInput c supplied :: rest) : step s = iterate s := by
  cases supplied <;> simp [step, hin, callInput, callArrives, hfetching]

theorem step_translate_of_fetching {s : State} {c : Call} {supplied : Option WalkParams} {rest : List Input}
    (hfetching : s.phase = .fetching) (hin : s.inputs = .translate c supplied :: rest) : step s = iterate s := by
  simp [step, hin, translationArrives, hfetching]

theorem step_of_asks_of_fetching {s : State} {c : Call} {rest : List Input} (hfetching : s.phase = .fetching)
    (hasks : Asks s c rest) : step s = iterate s := by
  obtain ⟨supplied, hcall | htranslate⟩ := (asks_iff s c rest).mp hasks
  · exact step_call_of_fetching hfetching hcall
  · exact step_translate_of_fetching hfetching htranslate

/-- Settles O58: both steps are the iteration of `s`, the first since what arrives waits, the second since the walker's
turn uses up no more than itself. -/
theorem callWaitsForTheWalkInProgress : Obligations.CallWaitsForTheWalkInProgress := by
  intro s c rest hfetching hasks
  have hmove : step { s with inputs := .walker :: s.inputs } = iterate s :=
    step_of_walkersTurn (s := { s with inputs := .walker :: s.inputs }) hfetching (.inr ⟨s.inputs, rfl⟩)
  calc step s
      = iterate s := step_of_asks_of_fetching hfetching hasks
    _ = step { s with inputs := .walker :: s.inputs } := hmove.symm

end Sys2Proof.Machine
end
